-- ==== Sys2Proof/Word.lean ====
section
/-! DEFINITION. The word types of the block: the 32-bit instruction word and address, the 4-bit register
index, the byte. -/

namespace Sys2Proof

/-- `u32` (R7): the instruction word `raw` (R12, "RawWord"), the address `addr` (D3), a bit pattern of an `i32`
(D22: the signed value is its `toInt`). -/
abbrev Word := BitVec 32

/-- A register index, a `u4` naming one of sixteen registers of the external CPU (R13). -/
abbrev Reg := BitVec 4

/-- A byte of the test bench's memory (R21); the block itself sees words only. -/
abbrev Byte := BitVec 8

end Sys2Proof
end

