-- ==== Sys2Proof/Syntax.lean ====
section
/-! DEFINITION. The value types that cross the block (R12), and the instructions: one constructor of `Instr` for
every row of the opcode table, with every bit of the word that the row leaves free. -/

namespace Sys2Proof

/-- The fifteen named conditions, codes 0 to 14 in this order (R12, R71); code 15 has no name (R72). -/
inductive Condition where
  | equal | notEqual | unsignedHigherOrSame | unsignedLower | negative | positiveOrZero | overflow | noOverflow
  | unsignedHigher | unsignedLowerOrSame | greaterOrEqual | lessThan | greaterThan | lessThanOrEqual | always
  deriving DecidableEq, Repr, Inhabited

/-- The thirteen instruction formats (R12), in the order of the classifier's rules (R77). -/
inductive Format where
  | branchExchange | branchLink | multiply | multiplyLong | singleDataTransfer | halfwordSignedTransferReg
  | halfwordSignedTransferImm | blockDataTransfer | singleDataSwap | moveFromPsr | moveToPsrReg | moveToPsrFlags
  | dataProcessing
  deriving DecidableEq, Repr, Inhabited

/-- The sixteen data-processing operations, codes 0 to 15 in this order (R103; names by decision D8, only `mov` is
the source's). -/
inductive OpCode where
  | and | eor | sub | rsb | add | adc | sbc | rsc | tst | teq | cmp | cmn | orr | mov | bic | mvn
  deriving DecidableEq, Repr, Inhabited

/-- The four shift types (R12, R92). -/
inductive ShiftType where
  | logicalLeft | logicalRight | arithmeticRight | rotateRight
  deriving DecidableEq, Repr, Inhabited

/-- A described, not performed, shift (R12, R98): by a constant amount, or by the content of a register whose
index is all that is known. -/
inductive ShiftDescriptor where
  | immediateShift (amount : BitVec 5) (type : ShiftType)
  | registerShift (rs : Reg) (type : ShiftType)
  deriving DecidableEq, Repr, Inhabited

/-- The rotate amount of a rotated immediate (R12): an even number 0 to 30, recorded doubled (D24). -/
structure RotateAmount where
  amount : BitVec 5
  even : amount.toNat % 2 = 0
  deriving DecidableEq, Repr

/-- A second operand or transfer offset (R12). -/
inductive OperandValue where
  | immediateValue (v : BitVec 12)
  | rotatedImmediate (imm8 : BitVec 8) (rotate : RotateAmount)
  | shiftedRegister (rm : Reg) (shift : ShiftDescriptor)
  deriving DecidableEq, Repr, Inhabited

/-- The number of bytes a transfer moves (R107): 1 or 4, nothing else. -/
inductive TransferSize where
  | oneByte | fourBytes
  deriving DecidableEq, Repr, Inhabited

/-- The record of an instruction descriptor (R12). Anyone can build one; the block's own output is a `DecodedDescriptor`,
this record with the proof that `decode` returned it (R54). -/
structure Descriptor where
  cond : Condition
  fmt : Format
  raw : Word
  pc : Word
  deriving DecidableEq, Repr, Inhabited

/-- The three error values (R12, R140). Nothing produces `invalidShiftType` (R143). The width of its carried code is not
stated (R143); 2 bits, the width of the source field, is the model's DESIGN CHOICE (log entry 26). -/
inductive DecodeError where
  | reservedConditionCode (code : BitVec 4)
  | unknownInstructionFormat (word : Word)
  | invalidShiftType (code : BitVec 2)
  deriving DecidableEq, Repr, Inhabited

/-- The value of every extractor output (R56), all present at once beside a descriptor (D15). -/
structure Extracted where
  rn : Reg
  rd : Reg
  rm : Reg
  opcode : OpCode
  /-- an `i32` by its bit pattern (R104, D22) -/
  branchOffset : Word
  /-- `load_flag`, alias `set_cond_flag` (R105) -/
  loadFlag : Bool
  writeBackFlag : Bool
  transferSize : TransferSize
  psrFlag : Bool
  addOffsetFlag : Bool
  /-- `pre_index_flag`, alias `link_flag` (R110) -/
  preIndexFlag : Bool
  /-- `immediate_select` (R111), which a realisation MAY output: that the model does is its DESIGN CHOICE (log entry 27) -/
  immediateSelect : Bool
  registerList : List Reg
  operand2 : OperandValue
  offset : OperandValue
  /-- `rotated_immediate_value` of `operand2` (R96): present exactly when `operand2` is a rotated immediate -/
  operand2Value : Option Word
  deriving DecidableEq, Repr, Inhabited

/-- The values on the output ports (R51, R153; the register list as mask and count, D23). The spec fixes no bits
for an `OperandValue`, so those three ports carry the value itself, or nothing. -/
structure Ports where
  ok : Bool
  errKind : BitVec 2
  errInfo : Word
  dCond : BitVec 4
  dFmt : BitVec 4
  dRaw : Word
  dPc : Word
  rn : Reg
  rd : Reg
  rm : Reg
  opcode : BitVec 4
  branchOffset : Word
  loadFlag : Bool
  writeBackFlag : Bool
  transferSize : BitVec 3
  psrFlag : Bool
  addOffsetFlag : Bool
  preIndexFlag : Bool
  /-- an output of its own by the model's DESIGN CHOICE (R111 allows it, R51 and R56 do not list it; log entry 27) -/
  immediateSelect : Bool
  listMask : BitVec 16
  listCount : BitVec 5
  operand2 : Option OperandValue
  offset : Option OperandValue
  operand2Value : Option Word
  deriving DecidableEq, Repr, Inhabited

/-- The extractors, named, for the applicability matrix (R116). -/
inductive Extractor where
  | rn | rd | rm | opcode | branchOffset | loadFlag | setCondFlag | writeBackFlag | transferSize | psrFlag
  | addOffsetFlag | preIndexFlag | linkFlag | registerList | operand2 | offset
  deriving DecidableEq, Repr, Inhabited

/-- Whether an extractor's value has a meaning for a format (R116): stated by the source, paired by general
knowledge, or none. -/
inductive Applicability where
  | stated | general | meaningless
  deriving DecidableEq, Repr, Inhabited

/-- The rows of the opcode table. `BranchLink` and `DataProcessing` are the two format rows that the rows `B`, `BL`
and `AND` to `MVN` refine; `no_format` and `reserved_condition` are the words that decode to an error. Each
constructor carries every bit its row leaves free, so that a word is read without loss. -/
inductive Instr where
  /-- R120 -/
  | branchExchange (cond : Condition) (rn : Reg)
  /-- R121, the format row -/
  | branchLink (cond : Condition) (link : Bool) (field : BitVec 24)
  /-- R121 with `raw[24] == 0` -/
  | b (cond : Condition) (field : BitVec 24)
  /-- R121 with `raw[24] == 1` -/
  | bl (cond : Condition) (field : BitVec 24)
  /-- R122; `rs` is the unextracted `raw[11:8]` -/
  | multiply (cond : Condition) (writeBack setCond : Bool) (rd rn rs rm : Reg)
  /-- R123; `rdHi` is the unextracted `raw[19:16]` -/
  | multiplyLong (cond : Condition) (psr writeBack setCond : Bool) (rdHi rd rn rm : Reg)
  /-- R124 -/
  | singleDataTransfer (cond : Condition) (immSel pre add size writeBack load : Bool) (rn rd : Reg) (sub : BitVec 12)
  /-- R125; `sh` is the unextracted `raw[6:5]` -/
  | halfwordSignedTransferReg (cond : Condition) (pre add writeBack load : Bool) (rn rd : Reg) (sh : BitVec 2) (rm : Reg)
  /-- R126; `immHi`, `sh`, `immLo` are the unextracted `raw[11:8]`, `raw[6:5]`, `raw[3:0]` -/
  | halfwordSignedTransferImm (cond : Condition) (pre add writeBack load : Bool) (rn rd : Reg) (immHi : BitVec 4) (sh : BitVec 2) (immLo : BitVec 4)
  /-- R127 -/
  | blockDataTransfer (cond : Condition) (pre add psr writeBack load : Bool) (rn : Reg) (list : BitVec 16)
  /-- R128 -/
  | singleDataSwap (cond : Condition) (size : Bool) (rn rd rm : Reg)
  /-- R129 -/
  | moveFromPsr (cond : Condition) (psr : Bool) (rd : Reg)
  /-- R130 -/
  | moveToPsrReg (cond : Condition) (psr : Bool) (rm : Reg)
  /-- R131 -/
  | moveToPsrFlags (cond : Condition) (immSel psr : Bool) (sub : BitVec 12)
  /-- R132, the format row -/
  | dataProcessing (cond : Condition) (immSel : Bool) (op : OpCode) (setCond : Bool) (rn rd : Reg) (sub : BitVec 12)
  /-- R132 with opcode 0 -/
  | and (cond : Condition) (immSel setCond : Bool) (rn rd : Reg) (sub : BitVec 12)
  /-- R132 with opcode 1 -/
  | eor (cond : Condition) (immSel setCond : Bool) (rn rd : Reg) (sub : BitVec 12)
  /-- R132 with opcode 2 -/
  | sub (cond : Condition) (immSel setCond : Bool) (rn rd : Reg) (sub : BitVec 12)
  /-- R132 with opcode 3 -/
  | rsb (cond : Condition) (immSel setCond : Bool) (rn rd : Reg) (sub : BitVec 12)
  /-- R132 with opcode 4 -/
  | add (cond : Condition) (immSel setCond : Bool) (rn rd : Reg) (sub : BitVec 12)
  /-- R132 with opcode 5 -/
  | adc (cond : Condition) (immSel setCond : Bool) (rn rd : Reg) (sub : BitVec 12)
  /-- R132 with opcode 6 -/
  | sbc (cond : Condition) (immSel setCond : Bool) (rn rd : Reg) (sub : BitVec 12)
  /-- R132 with opcode 7 -/
  | rsc (cond : Condition) (immSel setCond : Bool) (rn rd : Reg) (sub : BitVec 12)
  /-- R132 with opcode 8 -/
  | tst (cond : Condition) (immSel setCond : Bool) (rn rd : Reg) (sub : BitVec 12)
  /-- R132 with opcode 9 -/
  | teq (cond : Condition) (immSel setCond : Bool) (rn rd : Reg) (sub : BitVec 12)
  /-- R132 with opcode 10 -/
  | cmp (cond : Condition) (immSel setCond : Bool) (rn rd : Reg) (sub : BitVec 12)
  /-- R132 with opcode 11 -/
  | cmn (cond : Condition) (immSel setCond : Bool) (rn rd : Reg) (sub : BitVec 12)
  /-- R132 with opcode 12 -/
  | orr (cond : Condition) (immSel setCond : Bool) (rn rd : Reg) (sub : BitVec 12)
  /-- R132 with opcode 13 -/
  | mov (cond : Condition) (immSel setCond : Bool) (rn rd : Reg) (sub : BitVec 12)
  /-- R132 with opcode 14 -/
  | bic (cond : Condition) (immSel setCond : Bool) (rn rd : Reg) (sub : BitVec 12)
  /-- R132 with opcode 15 -/
  | mvn (cond : Condition) (immSel setCond : Bool) (rn rd : Reg) (sub : BitVec 12)
  /-- R133, R142: no classifier rule matches -/
  | noFormat (cond : Condition) (body : BitVec 26)
  /-- R141: condition code 15 -/
  | reservedCondition (body : BitVec 28)
  deriving DecidableEq, Repr

/-- The refined row of a data-processing word: one of the sixteen opcode rows. -/
def Instr.ofOpCode (op : OpCode) (cond : Condition) (immSel setCond : Bool) (rn rd : Reg) (sub : BitVec 12) : Instr :=
  match op with
  | .and => .and cond immSel setCond rn rd sub
  | .eor => .eor cond immSel setCond rn rd sub
  | .sub => .sub cond immSel setCond rn rd sub
  | .rsb => .rsb cond immSel setCond rn rd sub
  | .add => .add cond immSel setCond rn rd sub
  | .adc => .adc cond immSel setCond rn rd sub
  | .sbc => .sbc cond immSel setCond rn rd sub
  | .rsc => .rsc cond immSel setCond rn rd sub
  | .tst => .tst cond immSel setCond rn rd sub
  | .teq => .teq cond immSel setCond rn rd sub
  | .cmp => .cmp cond immSel setCond rn rd sub
  | .cmn => .cmn cond immSel setCond rn rd sub
  | .orr => .orr cond immSel setCond rn rd sub
  | .mov => .mov cond immSel setCond rn rd sub
  | .bic => .bic cond immSel setCond rn rd sub
  | .mvn => .mvn cond immSel setCond rn rd sub

/-- The most refined row that stands for the same word: a format row `BranchLink` or `DataProcessing` is the row `B`,
`BL` or the opcode's; every other row is its own. -/
def Instr.refined : Instr → Instr
  | .branchLink c link f => if link then .bl c f else .b c f
  | .dataProcessing c i op s n d o => .ofOpCode op c i s n d o
  | i => i

end Sys2Proof
end

