-- ==== Sys2Proof/Config.lean ====
section
/-! DEFINITION. The parameters of the block (R5) and its free values. The two named parameters that the spec lets a
model replace, CLASSIFIER_RULES and OFFSET_REG_WHEN_BIT25, stand beside the functions that read them: in Decode.lean
and in Machine/Operands.lean. There are no configuration inputs and no mode bits (R5). -/

namespace Sys2Proof

/-- `N_COND` (R5). -/
def Config.nCond : Nat := 15
/-- `N_FORMAT` (R5). -/
def Config.nFormat : Nat := 13
/-- `N_OPCODE` (R5). -/
def Config.nOpcode : Nat := 16
/-- `N_SHIFT_TYPE` (R5). -/
def Config.nShiftType : Nat := 4

/-- One row of the classifier's ordered list (R75). -/
structure Rule where
  mask : Word
  pattern : Word
  format : Format
  deriving DecidableEq, Repr, Inhabited

/-- FREE VALUE. What the output ports other than `ok`, `err_kind` and `err_info` show when decoding failed: any
value (R51, D6, U7). Every output is a function of the two inputs (R11), so this is an unknown function of
`raw` and `addr`. Log entry 6. -/
opaque Config.freePorts : Word → Word → Ports

end Sys2Proof
end

