-- ==== Sys2Proof/WellFormed.lean ====
section
/-! DEFINITION. Well-formed instructions: those whose word is really the word of their row, that is, whose word no
earlier classifier rule takes (R81). The checks are on the operands; R81's bit conditions are said field by field. -/

namespace Sys2Proof

/-- R81 row 6: a register-offset halfword word with `raw[24] == 0` and `raw[6:5] == 00` belongs to the multiplies. -/
def WellFormed.halfwordReg (pre : Bool) (sh : BitVec 2) : Bool :=
  !(!pre && sh == 0b00#2)

/-- R81 row 7: an immediate-offset halfword word with `raw[24:23] == 01` and `raw[6:5] == 00` belongs to
`MultiplyLong`. -/
def WellFormed.halfwordImm (pre add : Bool) (sh : BitVec 2) : Bool :=
  !(!pre && add && sh == 0b00#2)

/-- R81 row 12: a register-form flags move whose sub-field has the shape of a halfword transfer belongs to rules 6
and 7. -/
def WellFormed.psrFlags (immSel psr : Bool) (sub : BitVec 12) : Bool :=
  !(!immSel && sub.getLsbD 7 && sub.getLsbD 4 && (psr || sub.extractLsb' 8 4 == 0b0000#4))

/-- R81 row 13: a data-processing word must be none of rows 1, 3, 4, 6, 7, 10, 11, 12. -/
def WellFormed.dataProcessing (immSel : Bool) (op : OpCode) (setCond : Bool) (rn rd : Reg) (sub : BitVec 12) : Bool :=
  -- row 1
  !(!immSel && op == .teq && !setCond && rn == 15#4 && rd == 15#4 && sub.extractLsb' 4 8 == 0xF1#8) &&
  -- row 3: raw[24:22] == 000
  !(!immSel && (op == .and || op == .eor) && sub.extractLsb' 4 4 == 0b1001#4) &&
  -- row 4: raw[24:23] == 01
  !(!immSel && (op == .add || op == .adc || op == .sbc || op == .rsc) && sub.extractLsb' 4 4 == 0b1001#4) &&
  -- row 6: raw[22] == 0
  !(!immSel && (op == .and || op == .eor || op == .add || op == .adc || op == .tst || op == .teq || op == .orr || op == .mov) &&
      sub.extractLsb' 8 4 == 0b0000#4 && sub.getLsbD 7 && sub.getLsbD 4) &&
  -- row 7: raw[22] == 1
  !(!immSel && (op == .sub || op == .rsb || op == .sbc || op == .rsc || op == .cmp || op == .cmn || op == .bic || op == .mvn) &&
      sub.getLsbD 7 && sub.getLsbD 4) &&
  -- row 10
  !(!immSel && (op == .tst || op == .cmp) && !setCond && rn == 15#4 && sub == 0#12) &&
  -- row 11
  !(!immSel && (op == .teq || op == .cmn) && !setCond && rn == 9#4 && rd == 15#4 && sub.extractLsb' 4 8 == 0x00#8) &&
  -- row 12
  !((op == .teq || op == .cmn) && !setCond && rn == 8#4 && rd == 15#4)

/-- The check, one arm per row. `SingleDataSwap` has no word of its own under the literal table (R82). -/
def Instr.wellFormed : Instr → Bool
  | .branchExchange _ _ => true
  | .branchLink _ _ _ => true
  | .b _ _ => true
  | .bl _ _ => true
  | .multiply _ _ _ _ _ _ _ => true
  | .multiplyLong _ _ _ _ _ _ _ _ => true
  | .singleDataTransfer _ _ _ _ _ _ _ _ _ _ => true
  | .halfwordSignedTransferReg _ p _ _ _ _ _ sh _ => WellFormed.halfwordReg p sh
  | .halfwordSignedTransferImm _ p u _ _ _ _ _ sh _ => WellFormed.halfwordImm p u sh
  | .blockDataTransfer _ _ _ _ _ _ _ _ => true
  | .singleDataSwap _ _ _ _ _ => false
  | .moveFromPsr _ _ _ => true
  | .moveToPsrReg _ _ _ => true
  | .moveToPsrFlags _ immSel psr o => WellFormed.psrFlags immSel psr o
  | .dataProcessing _ i op s n d o => WellFormed.dataProcessing i op s n d o
  | .and _ i s n d o => WellFormed.dataProcessing i .and s n d o
  | .eor _ i s n d o => WellFormed.dataProcessing i .eor s n d o
  | .sub _ i s n d o => WellFormed.dataProcessing i .sub s n d o
  | .rsb _ i s n d o => WellFormed.dataProcessing i .rsb s n d o
  | .add _ i s n d o => WellFormed.dataProcessing i .add s n d o
  | .adc _ i s n d o => WellFormed.dataProcessing i .adc s n d o
  | .sbc _ i s n d o => WellFormed.dataProcessing i .sbc s n d o
  | .rsc _ i s n d o => WellFormed.dataProcessing i .rsc s n d o
  | .tst _ i s n d o => WellFormed.dataProcessing i .tst s n d o
  | .teq _ i s n d o => WellFormed.dataProcessing i .teq s n d o
  | .cmp _ i s n d o => WellFormed.dataProcessing i .cmp s n d o
  | .cmn _ i s n d o => WellFormed.dataProcessing i .cmn s n d o
  | .orr _ i s n d o => WellFormed.dataProcessing i .orr s n d o
  | .mov _ i s n d o => WellFormed.dataProcessing i .mov s n d o
  | .bic _ i s n d o => WellFormed.dataProcessing i .bic s n d o
  | .mvn _ i s n d o => WellFormed.dataProcessing i .mvn s n d o
  | .noFormat _ _ => true
  | .reservedCondition _ => true

/-- The instruction's word is the word of its row. -/
abbrev Instr.WellFormed (i : Instr) : Prop := i.wellFormed = true

end Sys2Proof
end

