-- ==== Sys2Proof/Decode.lean ====
section
/-! DEFINITION. The Bit Accessor and arithmetic helpers (R60 to R68), the Condition Decoder (R70 to R72), the Format
Classifier (R75 to R77), the top-level `decode` (R52), and on them the reading of a word as an `Instr`; after it the
encoder, and the byte-level entry. -/

namespace Sys2Proof

/-! ### Bit Accessor -/

/-- `bit(w, i)` (R60); the index is bounded by its type (D11). -/
def bit (w : Word) (i : Fin 32) : Bool := w.getLsbD i.val

/-- `bit_range(w, lo, hi)`, `lo` inclusive and `hi` exclusive (R61). Outside `lo ≤ hi ≤ 32` the spec gives no value
and lets a model answer 0 (D11, U8; log entry 8). -/
def bitRange (w : Word) (lo hi : Nat) : Word :=
  if lo ≤ hi ∧ hi ≤ 32 then (w.extractLsb' lo (hi - lo)).setWidth 32 else 0#32

/-- `w[lo + width - 1 : lo]` with its width in its type: the static instances of `bit_range` (R62). -/
def slice (w : Word) (lo width : Nat) : BitVec width := w.extractLsb' lo width

/-! ### Arithmetic helpers -/

/-- `asr32(x, n)` (R65). -/
def asr32 (x : Word) (n : Nat) : Word := x.sshiftRight n

/-- `sext_24(v)`, in the shift form the source prescribes (R64). -/
def sext24 (v : BitVec 24) : Word := asr32 (v.setWidth 32 <<< 8) 8

/-- `ror32(v, n)` for `n ≤ 31` (R66). -/
def ror32 (v : Word) (n : Nat) : Word := if n = 0 then v else (v >>> n) ||| (v <<< (32 - n))

/-- `as_i32(v)` (R68). -/
def asI32 (v : Word) : Int := if v.toNat < 2 ^ 31 then (v.toNat : Int) else (v.toNat : Int) - 2 ^ 32

/-! ### Condition Decoder -/

/-- The condition table, in exactly this numeric order (R71). -/
def conditionTable : List Condition :=
  [.equal, .notEqual, .unsignedHigherOrSame, .unsignedLower, .negative, .positiveOrZero, .overflow, .noOverflow,
   .unsignedHigher, .unsignedLowerOrSame, .greaterOrEqual, .lessThan, .greaterThan, .lessThanOrEqual, .always]

/-- `decode_condition(code)` (R71, R72): the named condition, or the reserved-code error carrying the code. -/
def decodeCondition (code : BitVec 4) : Except DecodeError Condition :=
  match conditionTable[code.toNat]? with
  | some c => .ok c
  | none => .error (.reservedConditionCode code)

/-- The numeric code of a condition (R71). -/
def Condition.code : Condition → BitVec 4
  | .equal => 0#4
  | .notEqual => 1#4
  | .unsignedHigherOrSame => 2#4
  | .unsignedLower => 3#4
  | .negative => 4#4
  | .positiveOrZero => 5#4
  | .overflow => 6#4
  | .noOverflow => 7#4
  | .unsignedHigher => 8#4
  | .unsignedLowerOrSame => 9#4
  | .greaterOrEqual => 10#4
  | .lessThan => 11#4
  | .greaterThan => 12#4
  | .lessThanOrEqual => 13#4
  | .always => 14#4

/-! ### Format Classifier -/

/-- `CLASSIFIER_RULES`: the thirteen rows, literal, in the required order (R77, D13). -/
def Config.classifierRules : List Rule :=
  [⟨0x0FFFFFF0#32, 0x012FFF10#32, .branchExchange⟩,
   ⟨0x0E000000#32, 0x0A000000#32, .branchLink⟩,
   ⟨0x0FC000F0#32, 0x00000090#32, .multiply⟩,
   ⟨0x0F8000F0#32, 0x00800090#32, .multiplyLong⟩,
   ⟨0x0C000000#32, 0x04000000#32, .singleDataTransfer⟩,
   ⟨0x0E400F90#32, 0x00000090#32, .halfwordSignedTransferReg⟩,
   ⟨0x0E400090#32, 0x00400090#32, .halfwordSignedTransferImm⟩,
   ⟨0x0E000000#32, 0x08000000#32, .blockDataTransfer⟩,
   ⟨0x0FB00FF0#32, 0x01000090#32, .singleDataSwap⟩,
   ⟨0x0FBF0FFF#32, 0x010F0000#32, .moveFromPsr⟩,
   ⟨0x0FBFFFF0#32, 0x0129F000#32, .moveToPsrReg⟩,
   ⟨0x0DBFF000#32, 0x0128F000#32, .moveToPsrFlags⟩,
   ⟨0x0C000000#32, 0x00000000#32, .dataProcessing⟩]

/-- `CLASSIFIER_RULES_REPAIRED` (D13): row 9 moved to stand immediately before row 6. Not the default; no step uses
it. -/
def Config.classifierRulesRepaired : List Rule :=
  [⟨0x0FFFFFF0#32, 0x012FFF10#32, .branchExchange⟩,
   ⟨0x0E000000#32, 0x0A000000#32, .branchLink⟩,
   ⟨0x0FC000F0#32, 0x00000090#32, .multiply⟩,
   ⟨0x0F8000F0#32, 0x00800090#32, .multiplyLong⟩,
   ⟨0x0C000000#32, 0x04000000#32, .singleDataTransfer⟩,
   ⟨0x0FB00FF0#32, 0x01000090#32, .singleDataSwap⟩,
   ⟨0x0E400F90#32, 0x00000090#32, .halfwordSignedTransferReg⟩,
   ⟨0x0E400090#32, 0x00400090#32, .halfwordSignedTransferImm⟩,
   ⟨0x0E000000#32, 0x08000000#32, .blockDataTransfer⟩,
   ⟨0x0FBF0FFF#32, 0x010F0000#32, .moveFromPsr⟩,
   ⟨0x0FBFFFF0#32, 0x0129F000#32, .moveToPsrReg⟩,
   ⟨0x0DBFF000#32, 0x0128F000#32, .moveToPsrFlags⟩,
   ⟨0x0C000000#32, 0x00000000#32, .dataProcessing⟩]

/-- One classifier test: `(raw & mask) == pattern` (R76). -/
def Rule.hit (r : Rule) (raw : Word) : Bool := raw &&& r.mask == r.pattern

/-- `classify` over a given rule list (R76): the format of the first rule that hits, `none` for `NoMatch`. -/
def classifyWith : List Rule → Word → Option Format
  | [], _ => none
  | r :: rs, raw => if r.hit raw then some r.format else classifyWith rs raw

/-- `classify(raw)` under the literal table (R76, R77). -/
def classify (raw : Word) : Option Format := classifyWith Config.classifierRules raw

/-- The format tag on the `d_fmt` port: the number of the classifier rule, 1 to 13 (R51, D4). -/
def Format.tag : Format → BitVec 4
  | .branchExchange => 1#4
  | .branchLink => 2#4
  | .multiply => 3#4
  | .multiplyLong => 4#4
  | .singleDataTransfer => 5#4
  | .halfwordSignedTransferReg => 6#4
  | .halfwordSignedTransferImm => 7#4
  | .blockDataTransfer => 8#4
  | .singleDataSwap => 9#4
  | .moveFromPsr => 10#4
  | .moveToPsrReg => 11#4
  | .moveToPsrFlags => 12#4
  | .dataProcessing => 13#4

/-! ### The top-level operation -/

/-- The pseudocode of `decode(raw, addr)` over a given rule list, on plain records: the condition check, then the format
match (R52, R53). -/
def decodeRecordWith (rules : List Rule) (raw addr : Word) : Except DecodeError Descriptor :=
  match decodeCondition (slice raw 28 4) with
  | .error e => .error e
  | .ok cond =>
    match classifyWith rules raw with
    | none => .error (.unknownInstructionFormat raw)
    | some fmt => .ok { cond := cond, fmt := fmt, raw := raw, pc := addr }

/-- The same under the literal table (D13). -/
def decodeRecord (raw addr : Word) : Except DecodeError Descriptor := decodeRecordWith Config.classifierRules raw addr

/-- The record's word and address are the inputs unchanged (R52). -/
theorem decodeRecordWith_inputs {rules : List Rule} {raw addr : Word} {d : Descriptor}
    (h : decodeRecordWith rules raw addr = .ok d) : d.raw = raw ∧ d.pc = addr := by
  unfold decodeRecordWith at h
  split at h
  · cases h
  · split at h
    · cases h
    · cases h; exact ⟨rfl, rfl⟩

/-- The instruction descriptor, the block's successful output: a record and the proof that `decode` returned it from the
record's own word and address (R54). There is no other way to build one, so what R19 (b) to (e) derives holds of each. -/
structure DecodedDescriptor extends Descriptor where
  decoded : decodeRecord toDescriptor.raw toDescriptor.pc = .ok toDescriptor
  deriving DecidableEq, Repr

/-- The result of `decode` (R50): `Ok(InstructionDescriptor)` or `Err(DecodeError)`. -/
inductive DecodeResult where
  | ok (d : DecodedDescriptor)
  | err (e : DecodeError)
  deriving DecidableEq, Repr

/-- `decode(raw, addr)` (R52): the one operation that yields a descriptor (R54). -/
def blockDecode (raw addr : Word) : DecodeResult :=
  match h : decodeRecord raw addr with
  | .error e => .err e
  | .ok d => .ok { toDescriptor := d, decoded := by rw [(decodeRecordWith_inputs h).1, (decodeRecordWith_inputs h).2]; exact h }

/-- Whether a decode succeeded: the value of the `ok` output (R51). -/
def DecodeResult.isOk : DecodeResult → Bool
  | .ok _ => true
  | .err _ => false

/-! ### Opcodes -/

/-- `OPCODE_TABLE` (R103, D8). -/
def opcodeTable : List OpCode :=
  [.and, .eor, .sub, .rsb, .add, .adc, .sbc, .rsc, .tst, .teq, .cmp, .cmn, .orr, .mov, .bic, .mvn]

/-- The operation of a 4-bit code; total, every code has a row (R103). -/
def OpCode.ofCode (code : BitVec 4) : OpCode := opcodeTable[code.toNat]'(code.isLt)

/-- The code of an operation (R103). -/
def OpCode.code : OpCode → BitVec 4
  | .and => 0#4
  | .eor => 1#4
  | .sub => 2#4
  | .rsb => 3#4
  | .add => 4#4
  | .adc => 5#4
  | .sbc => 6#4
  | .rsc => 7#4
  | .tst => 8#4
  | .teq => 9#4
  | .cmp => 10#4
  | .cmn => 11#4
  | .orr => 12#4
  | .mov => 13#4
  | .bic => 14#4
  | .mvn => 15#4

/-! ### Reading a word as an instruction -/

/-- The row of a word whose first matching rule is `fmt`, with the free bits of its encoding (R34, R120 to R132). A
branch or data-processing word is read as its refined row. -/
def decodeFormat (fmt : Format) (cond : Condition) (raw : Word) : Instr :=
  match fmt with
  | .branchExchange => .branchExchange cond (slice raw 0 4)
  | .branchLink => if bit raw 24 then .bl cond (slice raw 0 24) else .b cond (slice raw 0 24)
  | .multiply => .multiply cond (bit raw 21) (bit raw 20) (slice raw 16 4) (slice raw 12 4) (slice raw 8 4) (slice raw 0 4)
  | .multiplyLong =>
    .multiplyLong cond (bit raw 22) (bit raw 21) (bit raw 20) (slice raw 16 4) (slice raw 12 4) (slice raw 8 4) (slice raw 0 4)
  | .singleDataTransfer =>
    .singleDataTransfer cond (bit raw 25) (bit raw 24) (bit raw 23) (bit raw 22) (bit raw 21) (bit raw 20)
      (slice raw 16 4) (slice raw 12 4) (slice raw 0 12)
  | .halfwordSignedTransferReg =>
    .halfwordSignedTransferReg cond (bit raw 24) (bit raw 23) (bit raw 21) (bit raw 20)
      (slice raw 16 4) (slice raw 12 4) (slice raw 5 2) (slice raw 0 4)
  | .halfwordSignedTransferImm =>
    .halfwordSignedTransferImm cond (bit raw 24) (bit raw 23) (bit raw 21) (bit raw 20)
      (slice raw 16 4) (slice raw 12 4) (slice raw 8 4) (slice raw 5 2) (slice raw 0 4)
  | .blockDataTransfer =>
    .blockDataTransfer cond (bit raw 24) (bit raw 23) (bit raw 22) (bit raw 21) (bit raw 20) (slice raw 16 4) (slice raw 0 16)
  | .singleDataSwap => .singleDataSwap cond (bit raw 22) (slice raw 16 4) (slice raw 12 4) (slice raw 0 4)
  | .moveFromPsr => .moveFromPsr cond (bit raw 22) (slice raw 12 4)
  | .moveToPsrReg => .moveToPsrReg cond (bit raw 22) (slice raw 0 4)
  | .moveToPsrFlags => .moveToPsrFlags cond (bit raw 25) (bit raw 22) (slice raw 0 12)
  | .dataProcessing =>
    .ofOpCode (OpCode.ofCode (slice raw 21 4)) cond (bit raw 25) (bit raw 20) (slice raw 16 4) (slice raw 12 4) (slice raw 0 12)

/-- A word read as an instruction over a given rule list. Total: the words `decode` answers with an error are the
rows `reserved_condition` and `no_format` (R141, R133). -/
def decodeWordWith (rules : List Rule) (raw : Word) : Instr :=
  match decodeCondition (slice raw 28 4) with
  | .error _ => .reservedCondition (slice raw 0 28)
  | .ok cond =>
    match classifyWith rules raw with
    | none => .noFormat cond (slice raw 0 26)
    | some fmt => decodeFormat fmt cond raw

/-- A word read as an instruction, under the literal table. -/
def decodeWord (raw : Word) : Instr := decodeWordWith Config.classifierRules raw

/-! ### The encoder -/

/-- `x` placed with its bit 0 at bit `lo` of a word. -/
def place (lo : Nat) {n : Nat} (x : BitVec n) : Word := x.setWidth 32 <<< lo

/-- A flag placed at bit `i` of a word. -/
def placeBit (i : Nat) (b : Bool) : Word := (BitVec.ofBool b).setWidth 32 <<< i

/-- The word of a data-processing instruction: `cccc 00Ip pppL nnnn dddd oooo oooo oooo` (R34 row 13). -/
def encodeDataProcessing (cond : Condition) (immSel : Bool) (op : OpCode) (setCond : Bool) (rn rd : Reg) (sub : BitVec 12) : Word :=
  place 28 cond.code ||| placeBit 25 immSel ||| place 21 op.code ||| placeBit 20 setCond ||| place 16 rn |||
    place 12 rd ||| place 0 sub

/-- The word of a branch: `cccc 101P oooo oooo oooo oooo oooo oooo` (R34 row 2). -/
def encodeBranch (cond : Condition) (link : Bool) (field : BitVec 24) : Word :=
  place 28 cond.code ||| 0x0A000000#32 ||| placeBit 24 link ||| place 0 field

/-- The word of an instruction, from the pattern strings of R34 and, for the two error rows, of the table. -/
def encode : Instr → Word
  | .branchExchange c rn => place 28 c.code ||| 0x012FFF10#32 ||| place 0 rn
  | .branchLink c link f => encodeBranch c link f
  | .b c f => encodeBranch c false f
  | .bl c f => encodeBranch c true f
  | .multiply c w s rd rn rs rm =>
    place 28 c.code ||| 0x00000090#32 ||| placeBit 21 w ||| placeBit 20 s ||| place 16 rd ||| place 12 rn ||| place 8 rs ||| place 0 rm
  | .multiplyLong c u w s rdHi rd rn rm =>
    place 28 c.code ||| 0x00800090#32 ||| placeBit 22 u ||| placeBit 21 w ||| placeBit 20 s ||| place 16 rdHi ||| place 12 rd |||
      place 8 rn ||| place 0 rm
  | .singleDataTransfer c i p u b w l rn rd sub =>
    place 28 c.code ||| 0x04000000#32 ||| placeBit 25 i ||| placeBit 24 p ||| placeBit 23 u ||| placeBit 22 b ||| placeBit 21 w |||
      placeBit 20 l ||| place 16 rn ||| place 12 rd ||| place 0 sub
  | .halfwordSignedTransferReg c p u w l rn rd sh rm =>
    place 28 c.code ||| 0x00000090#32 ||| placeBit 24 p ||| placeBit 23 u ||| placeBit 21 w ||| placeBit 20 l ||| place 16 rn |||
      place 12 rd ||| place 5 sh ||| place 0 rm
  | .halfwordSignedTransferImm c p u w l rn rd hi sh lo =>
    place 28 c.code ||| 0x00400090#32 ||| placeBit 24 p ||| placeBit 23 u ||| placeBit 21 w ||| placeBit 20 l ||| place 16 rn |||
      place 12 rd ||| place 8 hi ||| place 5 sh ||| place 0 lo
  | .blockDataTransfer c p u s w l rn list =>
    place 28 c.code ||| 0x08000000#32 ||| placeBit 24 p ||| placeBit 23 u ||| placeBit 22 s ||| placeBit 21 w ||| placeBit 20 l |||
      place 16 rn ||| place 0 list
  | .singleDataSwap c b rn rd rm =>
    place 28 c.code ||| 0x01000090#32 ||| placeBit 22 b ||| place 16 rn ||| place 12 rd ||| place 0 rm
  | .moveFromPsr c b rd => place 28 c.code ||| 0x010F0000#32 ||| placeBit 22 b ||| place 12 rd
  | .moveToPsrReg c b rm => place 28 c.code ||| 0x0129F000#32 ||| placeBit 22 b ||| place 0 rm
  | .moveToPsrFlags c i b sub => place 28 c.code ||| 0x0128F000#32 ||| placeBit 25 i ||| placeBit 22 b ||| place 0 sub
  | .dataProcessing c i op s rn rd sub => encodeDataProcessing c i op s rn rd sub
  | .and c i s rn rd sub => encodeDataProcessing c i .and s rn rd sub
  | .eor c i s rn rd sub => encodeDataProcessing c i .eor s rn rd sub
  | .sub c i s rn rd sub => encodeDataProcessing c i .sub s rn rd sub
  | .rsb c i s rn rd sub => encodeDataProcessing c i .rsb s rn rd sub
  | .add c i s rn rd sub => encodeDataProcessing c i .add s rn rd sub
  | .adc c i s rn rd sub => encodeDataProcessing c i .adc s rn rd sub
  | .sbc c i s rn rd sub => encodeDataProcessing c i .sbc s rn rd sub
  | .rsc c i s rn rd sub => encodeDataProcessing c i .rsc s rn rd sub
  | .tst c i s rn rd sub => encodeDataProcessing c i .tst s rn rd sub
  | .teq c i s rn rd sub => encodeDataProcessing c i .teq s rn rd sub
  | .cmp c i s rn rd sub => encodeDataProcessing c i .cmp s rn rd sub
  | .cmn c i s rn rd sub => encodeDataProcessing c i .cmn s rn rd sub
  | .orr c i s rn rd sub => encodeDataProcessing c i .orr s rn rd sub
  | .mov c i s rn rd sub => encodeDataProcessing c i .mov s rn rd sub
  | .bic c i s rn rd sub => encodeDataProcessing c i .bic s rn rd sub
  | .mvn c i s rn rd sub => encodeDataProcessing c i .mvn s rn rd sub
  | .noFormat c body => place 28 c.code ||| 0x0C000000#32 ||| place 0 body
  | .reservedCondition body => 0xF0000000#32 ||| place 0 body

/-! ### Bytes -/

/-- The fetch stage's assembly of a word, lowest address first, that the spec recommends to a test bench: little-endian
(R21, D16). -/
def assembleWord (b0 b1 b2 b3 : Byte) : Word := place 0 b0 ||| place 8 b1 ||| place 16 b2 ||| place 24 b3

/-- The four bytes of a word, lowest address first (R21, D16). -/
def wordBytes (w : Word) : List Byte := [slice w 0 8, slice w 8 8, slice w 16 8, slice w 24 8]

/-- Why a byte string is not the start of an instruction: every instruction is exactly 32 bits long (R30). -/
inductive BytesRefusal where
  | fewerThanFourBytes
  deriving DecidableEq, Repr

/-- Reading bytes: an instruction and the bytes after it, or a refusal by name. Total on any bytes; four bytes are
never refused (R30, R55). -/
def decodeBytes : List Byte → Except BytesRefusal (Instr × List Byte)
  | b0 :: b1 :: b2 :: b3 :: rest => .ok (decodeWord (assembleWord b0 b1 b2 b3), rest)
  | _ => .error .fewerThanFourBytes

/-- The 32-bit word that the opcode table's numbering gives `nbits` bits `w`, every bit above them 0. -/
def tableWord (nbits w : Nat) : Word := BitVec.ofNat 32 (w % 2 ^ nbits)

/-- The instruction this decoder reads from a word numbered as the opcode table numbers it; a row of more than 32
bits is no instruction of this block (R30). -/
def decodeTableWord (nbits w : Nat) : Option Instr :=
  if nbits ≤ 32 then
    match decodeBytes (wordBytes (tableWord nbits w)) with
    | .ok (i, _) => some i
    | .error _ => none
  else none

end Sys2Proof
end

