-- ==== Sys2Proof/Machine/Flags.lean ====
section
/-! DEFINITION. The single-bit accessors (R105 to R111). The block holds and writes no flags (R15); each of these
returns a bit of the word, whatever the format (R115). Where one bit has two meanings it has two names. -/

namespace Sys2Proof.Machine

/-- `load_flag` (R105). -/
def loadFlag (raw : Word) : Bool := bit raw 20

/-- `set_cond_flag`, the other name of bit 20 (R105). -/
def setCondFlag (raw : Word) : Bool := loadFlag raw

/-- `write_back_flag` (R106). -/
def writeBackFlag (raw : Word) : Bool := bit raw 21

/-- `transfer_size` (R107): bit 22 set, one byte; clear, four. -/
def transferSize (raw : Word) : TransferSize := if bit raw 22 then .oneByte else .fourBytes

/-- The number of bytes of a transfer size (R107). -/
def TransferSize.bytes : TransferSize → Nat
  | .oneByte => 1
  | .fourBytes => 4

/-- `psr_flag` (R108). -/
def psrFlag (raw : Word) : Bool := bit raw 22

/-- `add_offset_flag` (R109, D29). -/
def addOffsetFlag (raw : Word) : Bool := bit raw 23

/-- `pre_index_flag` (R110, D29). -/
def preIndexFlag (raw : Word) : Bool := bit raw 24

/-- `link_flag`, the other name of bit 24 (R110). -/
def linkFlag (raw : Word) : Bool := preIndexFlag raw

/-- `immediate_select` (R111); that it is an output of its own is the model's choice (log entry 27). -/
def immediateSelect (raw : Word) : Bool := bit raw 25

end Sys2Proof.Machine
end

