-- ==== Sys2Proof/Machine/Operands.lean ====
section
/-! DEFINITION. The Shift/Operand Decoder (R90 to R99): the twelve low bits of a word and bit 25 turned into an
`OperandValue`. Format-blind (R97) and total: the shift-type lookup cannot fail (R93, D12). -/

namespace Sys2Proof.Machine

/-- `SHIFT_TYPE_TABLE` (R92, D7). -/
def shiftTypeTable : List ShiftType := [.logicalLeft, .logicalRight, .arithmeticRight, .rotateRight]

/-- The shift type of a 2-bit code; all four are valid (R92, R93). -/
def shiftType (code : BitVec 2) : ShiftType := shiftTypeTable[code.toNat]'(code.isLt)

/-- `decode_shift(sub)` (R91). The amount of an immediate shift is the field as it stands, 0 included (R98, D25). -/
def decodeShift (sub : BitVec 12) : ShiftDescriptor :=
  let type := shiftType (sub.extractLsb' 5 2)
  if sub.getLsbD 4 then .registerShift (sub.extractLsb' 8 4) type
  else .immediateShift (sub.extractLsb' 7 5) type

/-- The recorded rotate amount, twice the 4-bit field (R94, D24). -/
def rotateAmount (field : BitVec 4) : RotateAmount where
  amount := field.setWidth 5 <<< 1
  even := by simp only [BitVec.toNat_shiftLeft, BitVec.toNat_setWidth, Nat.shiftLeft_eq]; omega

/-- The register form, shared by `operand2` and `offset` (R94, R95). -/
def shiftedRegister (sub : BitVec 12) : OperandValue := .shiftedRegister (sub.extractLsb' 0 4) (decodeShift sub)

/-- `operand2(raw)` (R94): bit 25 set selects the rotated immediate. -/
def operand2 (raw : Word) : OperandValue :=
  let sub := slice raw 0 12
  if bit raw 25 then .rotatedImmediate (sub.extractLsb' 0 8) (rotateAmount (sub.extractLsb' 8 4))
  else shiftedRegister sub

/-- `offset(raw)` for either polarity of its selector (R95, D9): the value of bit 25 that selects the shifted
register. -/
def offsetWith (regWhenBit25 : Bool) (raw : Word) : OperandValue :=
  let sub := slice raw 0 12
  if bit raw 25 == regWhenBit25 then shiftedRegister sub else .immediateValue sub

/-- `OFFSET_REG_WHEN_BIT25` (R5, D9, U10): the default polarity. -/
def offsetRegWhenBit25 : Bool := true

/-- `offset(raw)` (R95) at the default polarity. -/
def offset (raw : Word) : OperandValue := offsetWith offsetRegWhenBit25 raw

/-- `rotated_immediate_value(imm8, rotate)` (R96), an `i32` by its bit pattern (R68, D22). -/
def rotatedImmediateValue (imm8 : BitVec 8) (rotate : RotateAmount) : Word := ror32 (imm8.setWidth 32) rotate.amount.toNat

/-- The value of an operand where the block computes one: that of a rotated immediate (R96). -/
def OperandValue.value? : OperandValue → Option Word
  | .rotatedImmediate imm8 rotate => some (rotatedImmediateValue imm8 rotate)
  | .immediateValue _ => none
  | .shiftedRegister _ _ => none

end Sys2Proof.Machine
end

