-- ==== Sys2Proof/Machine/Extractors.lean ====
section
/-! DEFINITION. The Field Extractors (R100 to R104, R112), the bundle of them all (R56), and the applicability matrix
(R116). Every extractor is total on every format and returns the bits its rule names (R113, R115, D14); only `rn`
and `rd` look at the format. -/

namespace Sys2Proof.Machine

/-- `rn(d)`, the base register index (R100). -/
def rn (fmt : Format) (raw : Word) : Reg :=
  match fmt with
  | .multiply => slice raw 12 4
  | .multiplyLong => slice raw 8 4
  | .branchExchange => slice raw 0 4
  | .branchLink | .singleDataTransfer | .halfwordSignedTransferReg | .halfwordSignedTransferImm | .blockDataTransfer
  | .singleDataSwap | .moveFromPsr | .moveToPsrReg | .moveToPsrFlags | .dataProcessing => slice raw 16 4

/-- `rd(d)`, the destination register index (R101). -/
def rd (fmt : Format) (raw : Word) : Reg :=
  match fmt with
  | .multiply => slice raw 16 4
  | .branchExchange | .branchLink | .multiplyLong | .singleDataTransfer | .halfwordSignedTransferReg
  | .halfwordSignedTransferImm | .blockDataTransfer | .singleDataSwap | .moveFromPsr | .moveToPsrReg | .moveToPsrFlags
  | .dataProcessing => slice raw 12 4

/-- `rm(d)`, the operand / shift register index, the same bits for every format (R102). -/
def rm (raw : Word) : Reg := slice raw 0 4

/-- `opcode(d)` (R103). -/
def opcode (raw : Word) : OpCode := OpCode.ofCode (slice raw 21 4)

/-- `branch_offset(d)` (R104): the sign-extended field times 4 plus the pipeline offset 8, an `i32` by its bit
pattern. -/
def branchOffset (raw : Word) : Word := sext24 (slice raw 0 24) * 4#32 + 8#32

/-- `register_list(d)` (R112): the set bits of `raw[15:0]`, in ascending order. -/
def registerList (raw : Word) : List Reg :=
  ((List.range 16).filter fun k => raw.getLsbD k).map fun k => BitVec.ofNat 4 k

/-- Every extractor output of a word of a format (R56): the block evaluates them all at once (D15). -/
def extractAll (fmt : Format) (raw : Word) : Extracted where
  rn := rn fmt raw
  rd := rd fmt raw
  rm := rm raw
  opcode := opcode raw
  branchOffset := branchOffset raw
  loadFlag := loadFlag raw
  writeBackFlag := writeBackFlag raw
  transferSize := transferSize raw
  psrFlag := psrFlag raw
  addOffsetFlag := addOffsetFlag raw
  preIndexFlag := preIndexFlag raw
  immediateSelect := immediateSelect raw
  registerList := registerList raw
  operand2 := operand2 raw
  offset := offset raw
  operand2Value := OperandValue.value? (operand2 raw)

/-- The cells of the applicability matrix (R116): for which formats an extractor's value has a meaning. -/
def applicability (e : Extractor) (f : Format) : Applicability :=
  match e, f with
  | .rn, .branchLink | .rn, .moveFromPsr | .rn, .moveToPsrReg | .rn, .moveToPsrFlags => .meaningless
  | .rn, _ => .stated
  | .rd, .branchExchange | .rd, .branchLink | .rd, .blockDataTransfer | .rd, .moveToPsrReg | .rd, .moveToPsrFlags =>
    .meaningless
  | .rd, _ => .stated
  | .rm, .branchLink | .rm, .halfwordSignedTransferImm | .rm, .blockDataTransfer | .rm, .moveFromPsr => .meaningless
  | .rm, _ => .general
  | .opcode, .dataProcessing => .stated
  | .opcode, _ => .meaningless
  | .branchOffset, .branchLink => .stated
  | .branchOffset, _ => .meaningless
  | .loadFlag, .singleDataTransfer | .loadFlag, .halfwordSignedTransferReg | .loadFlag, .halfwordSignedTransferImm
  | .loadFlag, .blockDataTransfer => .stated
  | .loadFlag, _ => .meaningless
  | .setCondFlag, .multiply | .setCondFlag, .multiplyLong => .general
  | .setCondFlag, .dataProcessing => .stated
  | .setCondFlag, _ => .meaningless
  | .writeBackFlag, .singleDataTransfer | .writeBackFlag, .halfwordSignedTransferReg
  | .writeBackFlag, .halfwordSignedTransferImm | .writeBackFlag, .blockDataTransfer => .general
  | .writeBackFlag, _ => .meaningless
  | .transferSize, .singleDataTransfer | .transferSize, .singleDataSwap => .general
  | .transferSize, _ => .meaningless
  | .psrFlag, .blockDataTransfer | .psrFlag, .moveFromPsr | .psrFlag, .moveToPsrReg | .psrFlag, .moveToPsrFlags => .general
  | .psrFlag, _ => .meaningless
  | .addOffsetFlag, .singleDataTransfer | .addOffsetFlag, .halfwordSignedTransferReg
  | .addOffsetFlag, .halfwordSignedTransferImm | .addOffsetFlag, .blockDataTransfer => .general
  | .addOffsetFlag, _ => .meaningless
  | .preIndexFlag, .singleDataTransfer | .preIndexFlag, .halfwordSignedTransferReg
  | .preIndexFlag, .halfwordSignedTransferImm | .preIndexFlag, .blockDataTransfer => .general
  | .preIndexFlag, _ => .meaningless
  | .linkFlag, .branchLink => .stated
  | .linkFlag, _ => .meaningless
  | .registerList, .blockDataTransfer => .stated
  | .registerList, _ => .meaningless
  | .operand2, .moveToPsrFlags => .general
  | .operand2, .dataProcessing => .stated
  | .operand2, _ => .meaningless
  | .offset, .singleDataTransfer => .general
  | .offset, _ => .meaningless

/-- Whether an extractor's value has a meaning for a word of a format: the matrix's cell, but that `rm` of a
data-processing word or of a flags move has one only in the register form, `raw[25] == 0` (R116, its closing note). -/
def applicabilityIn (e : Extractor) (fmt : Format) (raw : Word) : Applicability :=
  match e, fmt with
  | .rm, .dataProcessing | .rm, .moveToPsrFlags =>
    if immediateSelect raw then .meaningless else applicability .rm fmt
  | _, _ => applicability e fmt

/-- A format-scoped reading (R58 (c), R115): the value where it has a meaning for a word of the format, nothing
elsewhere. The raw extractors stay total beside it. -/
def scopedTo {α : Type} (e : Extractor) (fmt : Format) (raw : Word) (v : α) : Option α :=
  match applicabilityIn e fmt raw with
  | .meaningless => none
  | .stated => some v
  | .general => some v

end Sys2Proof.Machine
end

