-- ==== Sys2Proof/Machine/State.lean ====
section
/-! DEFINITION. The state, the faults and refusals, and reset. The block stores nothing (R10); State holds the values
on its wires: the two inputs and the outputs of the latest evaluation (R51). -/

namespace Sys2Proof.Machine

/-- One pair of input values that the caller presents to the block (R50). -/
structure Stimulus where
  raw : Word
  addr : Word
  deriving DecidableEq, Repr

/-- The outputs of one evaluation. The alternatives carry different data: on an error there is no descriptor and no
extractor value (R52, R145, D6). -/
inductive Answer where
  /-- no evaluation has been made since reset (the reading D20 gives the reset outputs; log entry 3) -/
  | noResult
  /-- `Ok`: the descriptor, which only `decode` can have built (R54), and beside it the value of every extractor (R56, D15) -/
  | descriptor (d : DecodedDescriptor) (x : Extracted)
  /-- `Err`: the error value alone (R140, R145) -/
  | error (e : DecodeError)
  deriving DecidableEq, Repr

/-- The machine's state. -/
structure State where
  /-- the input port `raw` (R51) -/
  raw : Word
  /-- the input port `addr` (R51, R14) -/
  addr : Word
  /-- the MODEL's own field: the pairs the caller will present at the next steps, oldest first (R157; log entry 4) -/
  pending : List Stimulus
  /-- the outputs of the latest evaluation (R51, R56) -/
  answer : Answer
  deriving DecidableEq, Repr

/-- There is no fault: no operation of the block stops, every input gives an answer (R157), and an error is an
output, neither sticky nor fatal (R146). Nothing raises one, so no safe or unsafe stop is hidden here. -/
inductive Fault where
  deriving DecidableEq, Repr

/-- The one refusal there could be. -/
inductive Refusal where
  /-- Raised by an arm of `exec` whose instruction has no meaning yet, with its mnemonic; safe. No arm raises it:
  every row of the opcode table has its meaning. -/
  | notModelled (mnemonic : String)
  deriving DecidableEq, Repr

/-- Right after reset: nothing evaluated, nothing presented. The block has no state to reset and no reset input
(R155); the inputs are undriven (any value, U9) and shown as 0 (log entry 2); the outputs are at the value D20
recommends, which is what `noResult` shows on the ports (log entry 3). -/
def State.reset : State := { raw := 0#32, addr := 0#32, pending := [], answer := .noResult }

end Sys2Proof.Machine
end

