-- ==== Sys2Proof/Machine/Ops.lean ====
section
/-! DEFINITION. The named operations: presenting an input, answering what `decode` returns, answering with an error (the
block's whole "exception entry", R145; there is no return from it, R146), and the port view of an answer (R51). -/

namespace Sys2Proof.Machine

/-- The caller presents its next pair on the inputs; with nothing pending the inputs are held (R162; log entry 4). -/
def State.present (s : State) : State :=
  match s.pending with
  | [] => s
  | p :: rest => { s with raw := p.raw, addr := p.addr, pending := rest }

/-- The outputs become an answer; nothing else changes. -/
def State.withAnswer (s : State) (a : Answer) : State := { s with answer := a }

/-- The answer for a descriptor: itself, and every extractor of its word (R52, R56). -/
def Answer.of (d : DecodedDescriptor) : Answer := .descriptor d (extractAll d.fmt d.raw)

/-- The answer for a decode result (R52). -/
def Answer.ofResult : DecodeResult → Answer
  | .ok d => .of d
  | .err e => .error e

/-- The block answers a word: the outputs become what `decode` returns on it and the address input (R52, R14), with the
extractors beside a descriptor. A descriptor comes from here and from nowhere else (R54). -/
def State.decode (s : State) (raw : Word) : State := s.withAnswer (.ofResult (blockDecode raw s.addr))

/-- The block answers `Err` (R145): the error value and no partial descriptor. Nothing is saved, no mode changes, no
interrupt is masked and no program counter is written, since there is none; the address is not carried. -/
def State.raise (s : State) (e : DecodeError) : State := s.withAnswer (.error e)

/-- The error kind code on the `err_kind` port (R140, R153, D5). -/
def DecodeError.kind : DecodeError → BitVec 2
  | .reservedConditionCode _ => 1#2
  | .unknownInstructionFormat _ => 2#2
  | .invalidShiftType _ => 3#2

/-- The carried value on the `err_info` port, zero-extended (R140, R153, D5); the 2-bit code of `invalidShiftType` is log
entry 26. -/
def DecodeError.info : DecodeError → Word
  | .reservedConditionCode code => code.setWidth 32
  | .unknownInstructionFormat word => word
  | .invalidShiftType code => code.setWidth 32

/-- The ports at the value D20 recommends after reset: every output 0, "no result yet" (R155; log entry 3). -/
def Ports.idle : Ports where
  ok := false
  errKind := 0#2
  errInfo := 0#32
  dCond := 0#4
  dFmt := 0#4
  dRaw := 0#32
  dPc := 0#32
  rn := 0#4
  rd := 0#4
  rm := 0#4
  opcode := 0#4
  branchOffset := 0#32
  loadFlag := false
  writeBackFlag := false
  transferSize := 0#3
  psrFlag := false
  addOffsetFlag := false
  preIndexFlag := false
  immediateSelect := false
  listMask := 0#16
  listCount := 0#5
  operand2 := none
  offset := none
  operand2Value := none

/-- The ports beside a descriptor (R51, R153): codes by D4 and D5, the register list as mask and count (D23); the bit
`immediate_select` as an output of its own is the model's choice (log entry 27). -/
def Ports.ofDescriptor (d : DecodedDescriptor) (x : Extracted) : Ports where
  ok := true
  errKind := 0#2
  errInfo := 0#32
  dCond := d.cond.code
  dFmt := d.fmt.tag
  dRaw := d.raw
  dPc := d.pc
  rn := x.rn
  rd := x.rd
  rm := x.rm
  opcode := x.opcode.code
  branchOffset := x.branchOffset
  loadFlag := x.loadFlag
  writeBackFlag := x.writeBackFlag
  transferSize := BitVec.ofNat 3 (TransferSize.bytes x.transferSize)
  psrFlag := x.psrFlag
  addOffsetFlag := x.addOffsetFlag
  preIndexFlag := x.preIndexFlag
  immediateSelect := x.immediateSelect
  listMask := slice d.raw 0 16
  listCount := BitVec.ofNat 5 x.registerList.length
  operand2 := some x.operand2
  offset := some x.offset
  operand2Value := x.operand2Value

/-- The values on the output ports (R51). On an error only `ok`, `err_kind` and `err_info` carry a meaning; the rest is
any value (D6, U7): the free value `Config.freePorts` of the two inputs. -/
def State.ports (s : State) : Ports :=
  match s.answer with
  | .noResult => Ports.idle
  | .descriptor d x => Ports.ofDescriptor d x
  | .error e => { Config.freePorts s.raw s.addr with ok := false, errKind := DecodeError.kind e, errInfo := DecodeError.info e }

/-- Decoding a program (R157): `decode` on each pair independently. -/
def decodeProgram (program : List Stimulus) : List DecodeResult := program.map fun p => blockDecode p.raw p.addr

end Sys2Proof.Machine
end

