-- ==== Sys2Proof/Machine/Branch.lean ====
section
/-! DEFINITION. The branches (R120, R121). The block names the register or outputs the displacement and the link bit; it forms no target and saves no return address. -/

namespace Sys2Proof.Machine

/-- R120: the branch target register is `rn = raw[3:0]`. -/
def execBranchExchange (c : Condition) (rn : Reg) (s : State) : Host.Outcome State Fault Refusal :=
  .next (s.decode (encode (.branchExchange c rn)))

/-- R121, the format row: the link bit and the displacement. -/
def execBranchLink (c : Condition) (link : Bool) (field : BitVec 24) (s : State) : Host.Outcome State Fault Refusal :=
  .next (s.decode (encode (.branchLink c link field)))

/-- R121 with the link bit clear: a plain branch. -/
def execB (c : Condition) (field : BitVec 24) (s : State) : Host.Outcome State Fault Refusal :=
  .next (s.decode (encode (.b c field)))

/-- R121 with the link bit set: branch with link. -/
def execBl (c : Condition) (field : BitVec 24) (s : State) : Host.Outcome State Fault Refusal :=
  .next (s.decode (encode (.bl c field)))

end Sys2Proof.Machine
end

