-- ==== Sys2Proof/Machine/DataProcessing.lean ====
section
/-! DEFINITION. Data processing (R132, R103): the format row and its sixteen opcode rows. The block outputs the opcode, the registers,
the flag and the operand; it performs no operation. -/

namespace Sys2Proof.Machine

/-- R132, the format row. -/
def execDataProcessing (c : Condition) (immSel : Bool) (op : OpCode) (setCond : Bool) (rn rd : Reg) (sub : BitVec 12) (s : State) : Host.Outcome State Fault Refusal :=
  .next (s.decode (encode (.dataProcessing c immSel op setCond rn rd sub)))

/-- R132 with `raw[24:21] == 0000`. -/
def execAnd (c : Condition) (immSel setCond : Bool) (rn rd : Reg) (sub : BitVec 12) (s : State) : Host.Outcome State Fault Refusal :=
  .next (s.decode (encode (.and c immSel setCond rn rd sub)))

/-- R132 with `raw[24:21] == 0001`. -/
def execEor (c : Condition) (immSel setCond : Bool) (rn rd : Reg) (sub : BitVec 12) (s : State) : Host.Outcome State Fault Refusal :=
  .next (s.decode (encode (.eor c immSel setCond rn rd sub)))

/-- R132 with `raw[24:21] == 0010`. -/
def execSub (c : Condition) (immSel setCond : Bool) (rn rd : Reg) (sub : BitVec 12) (s : State) : Host.Outcome State Fault Refusal :=
  .next (s.decode (encode (.sub c immSel setCond rn rd sub)))

/-- R132 with `raw[24:21] == 0011`. -/
def execRsb (c : Condition) (immSel setCond : Bool) (rn rd : Reg) (sub : BitVec 12) (s : State) : Host.Outcome State Fault Refusal :=
  .next (s.decode (encode (.rsb c immSel setCond rn rd sub)))

/-- R132 with `raw[24:21] == 0100`. -/
def execAdd (c : Condition) (immSel setCond : Bool) (rn rd : Reg) (sub : BitVec 12) (s : State) : Host.Outcome State Fault Refusal :=
  .next (s.decode (encode (.add c immSel setCond rn rd sub)))

/-- R132 with `raw[24:21] == 0101`. -/
def execAdc (c : Condition) (immSel setCond : Bool) (rn rd : Reg) (sub : BitVec 12) (s : State) : Host.Outcome State Fault Refusal :=
  .next (s.decode (encode (.adc c immSel setCond rn rd sub)))

/-- R132 with `raw[24:21] == 0110`. -/
def execSbc (c : Condition) (immSel setCond : Bool) (rn rd : Reg) (sub : BitVec 12) (s : State) : Host.Outcome State Fault Refusal :=
  .next (s.decode (encode (.sbc c immSel setCond rn rd sub)))

/-- R132 with `raw[24:21] == 0111`. -/
def execRsc (c : Condition) (immSel setCond : Bool) (rn rd : Reg) (sub : BitVec 12) (s : State) : Host.Outcome State Fault Refusal :=
  .next (s.decode (encode (.rsc c immSel setCond rn rd sub)))

/-- R132 with `raw[24:21] == 1000`. -/
def execTst (c : Condition) (immSel setCond : Bool) (rn rd : Reg) (sub : BitVec 12) (s : State) : Host.Outcome State Fault Refusal :=
  .next (s.decode (encode (.tst c immSel setCond rn rd sub)))

/-- R132 with `raw[24:21] == 1001`. -/
def execTeq (c : Condition) (immSel setCond : Bool) (rn rd : Reg) (sub : BitVec 12) (s : State) : Host.Outcome State Fault Refusal :=
  .next (s.decode (encode (.teq c immSel setCond rn rd sub)))

/-- R132 with `raw[24:21] == 1010`. -/
def execCmp (c : Condition) (immSel setCond : Bool) (rn rd : Reg) (sub : BitVec 12) (s : State) : Host.Outcome State Fault Refusal :=
  .next (s.decode (encode (.cmp c immSel setCond rn rd sub)))

/-- R132 with `raw[24:21] == 1011`. -/
def execCmn (c : Condition) (immSel setCond : Bool) (rn rd : Reg) (sub : BitVec 12) (s : State) : Host.Outcome State Fault Refusal :=
  .next (s.decode (encode (.cmn c immSel setCond rn rd sub)))

/-- R132 with `raw[24:21] == 1100`. -/
def execOrr (c : Condition) (immSel setCond : Bool) (rn rd : Reg) (sub : BitVec 12) (s : State) : Host.Outcome State Fault Refusal :=
  .next (s.decode (encode (.orr c immSel setCond rn rd sub)))

/-- R132 with `raw[24:21] == 1101`. -/
def execMov (c : Condition) (immSel setCond : Bool) (rn rd : Reg) (sub : BitVec 12) (s : State) : Host.Outcome State Fault Refusal :=
  .next (s.decode (encode (.mov c immSel setCond rn rd sub)))

/-- R132 with `raw[24:21] == 1110`. -/
def execBic (c : Condition) (immSel setCond : Bool) (rn rd : Reg) (sub : BitVec 12) (s : State) : Host.Outcome State Fault Refusal :=
  .next (s.decode (encode (.bic c immSel setCond rn rd sub)))

/-- R132 with `raw[24:21] == 1111`. -/
def execMvn (c : Condition) (immSel setCond : Bool) (rn rd : Reg) (sub : BitVec 12) (s : State) : Host.Outcome State Fault Refusal :=
  .next (s.decode (encode (.mvn c immSel setCond rn rd sub)))

end Sys2Proof.Machine
end

