-- ==== Sys2Proof/Machine/Errors.lean ====
section
/-! DEFINITION. The words that decode to an error (R133, R141, R142): an answer like any other, after which the block goes on (R146). -/

namespace Sys2Proof.Machine

/-- R142, R133: no classifier rule matches; the error carries the whole raw word, condition bits included. -/
def execNoFormat (c : Condition) (body : BitVec 26) (s : State) : Host.Outcome State Fault Refusal :=
  .next (s.raise (.unknownInstructionFormat (encode (.noFormat c body))))

/-- R141: condition code 15; the error carries the code and nothing of the body. -/
def execReservedCondition (_body : BitVec 28) (s : State) : Host.Outcome State Fault Refusal :=
  .next (s.raise (.reservedConditionCode 15#4))

end Sys2Proof.Machine
end

