-- ==== Sys2Proof/Machine/Multiply.lean ====
section
/-! DEFINITION. The multiplies (R122, R123): register indices and bits only, no product. -/

namespace Sys2Proof.Machine

/-- R122: `rd = raw[19:16]`, `rn = raw[15:12]`, `rm = raw[3:0]`. -/
def execMultiply (c : Condition) (writeBack setCond : Bool) (rd rn rs rm : Reg) (s : State) : Host.Outcome State Fault Refusal :=
  .next (s.decode (encode (.multiply c writeBack setCond rd rn rs rm)))

/-- R123: `rn = raw[11:8]`, `rd = raw[15:12]`, `rm = raw[3:0]`. -/
def execMultiplyLong (c : Condition) (psr writeBack setCond : Bool) (rdHi rd rn rm : Reg) (s : State) : Host.Outcome State Fault Refusal :=
  .next (s.decode (encode (.multiplyLong c psr writeBack setCond rdHi rd rn rm)))

end Sys2Proof.Machine
end

