-- ==== Sys2Proof/Machine/PsrMove.lean ====
section
/-! DEFINITION. The status-register moves (R129 to R131). The block reads and writes no PSR and checks no privilege (R149). -/

namespace Sys2Proof.Machine

/-- R129: the register that receives the PSR, and which PSR. -/
def execMoveFromPsr (c : Condition) (psr : Bool) (rd : Reg) (s : State) : Host.Outcome State Fault Refusal :=
  .next (s.decode (encode (.moveFromPsr c psr rd)))

/-- R130: the source register, and which PSR. -/
def execMoveToPsrReg (c : Condition) (psr : Bool) (rm : Reg) (s : State) : Host.Outcome State Fault Refusal :=
  .next (s.decode (encode (.moveToPsrReg c psr rm)))

/-- R131: the source operand, and which PSR. -/
def execMoveToPsrFlags (c : Condition) (immSel psr : Bool) (sub : BitVec 12) (s : State) : Host.Outcome State Fault Refusal :=
  .next (s.decode (encode (.moveToPsrFlags c immSel psr sub)))

end Sys2Proof.Machine
end

