-- ==== Sys2Proof/Machine/Transfer.lean ====
section
/-! DEFINITION. The transfers (R124 to R128). The block describes the access an execution stage will make and makes none (R28). -/

namespace Sys2Proof.Machine

/-- R124: base, register, offset operand, five flags, size. -/
def execSingleDataTransfer (c : Condition) (immSel pre add size writeBack load : Bool) (rn rd : Reg) (sub : BitVec 12) (s : State) : Host.Outcome State Fault Refusal :=
  .next (s.decode (encode (.singleDataTransfer c immSel pre add size writeBack load rn rd sub)))

/-- R125: base, register, offset register, four flags. -/
def execHalfwordSignedTransferReg (c : Condition) (pre add writeBack load : Bool) (rn rd : Reg) (sh : BitVec 2) (rm : Reg) (s : State) : Host.Outcome State Fault Refusal :=
  .next (s.decode (encode (.halfwordSignedTransferReg c pre add writeBack load rn rd sh rm)))

/-- R126: base, register, four flags; the split immediate has no extractor. -/
def execHalfwordSignedTransferImm (c : Condition) (pre add writeBack load : Bool) (rn rd : Reg) (immHi : BitVec 4) (sh : BitVec 2) (immLo : BitVec 4) (s : State) : Host.Outcome State Fault Refusal :=
  .next (s.decode (encode (.halfwordSignedTransferImm c pre add writeBack load rn rd immHi sh immLo)))

/-- R127: base, register list, five flags. -/
def execBlockDataTransfer (c : Condition) (pre add psr writeBack load : Bool) (rn : Reg) (list : BitVec 16) (s : State) : Host.Outcome State Fault Refusal :=
  .next (s.decode (encode (.blockDataTransfer c pre add psr writeBack load rn list)))

/-- R128: what the block does with a swap word: a descriptor of the register or the immediate halfword format, by
`raw[22]`, since the format itself is never produced (R82). What the outputs would be under the repaired rule list (D13)
is `extractAll .singleDataSwap` (log entry 13). -/
def execSingleDataSwap (c : Condition) (size : Bool) (rn rd rm : Reg) (s : State) : Host.Outcome State Fault Refusal :=
  .next (s.decode (encode (.singleDataSwap c size rn rd rm)))

end Sys2Proof.Machine
end

