-- ==== Sys2Proof/Machine/Dispatch.lean ====
section
/-! DEFINITION. One arm per row of the opcode table. -/

namespace Sys2Proof.Machine

def exec (i : Instr) (s : State) : Host.Outcome State Fault Refusal :=
  match i with
  | .branchExchange c rn => Sys2Proof.Machine.execBranchExchange c rn s
  | .branchLink c link field => Sys2Proof.Machine.execBranchLink c link field s
  | .b c field => Sys2Proof.Machine.execB c field s
  | .bl c field => Sys2Proof.Machine.execBl c field s
  | .multiply c w f rd rn rs rm => Sys2Proof.Machine.execMultiply c w f rd rn rs rm s
  | .multiplyLong c u w f rdHi rd rn rm => Sys2Proof.Machine.execMultiplyLong c u w f rdHi rd rn rm s
  | .singleDataTransfer c k p u z w l rn rd sub => Sys2Proof.Machine.execSingleDataTransfer c k p u z w l rn rd sub s
  | .halfwordSignedTransferReg c p u w l rn rd sh rm => Sys2Proof.Machine.execHalfwordSignedTransferReg c p u w l rn rd sh rm s
  | .halfwordSignedTransferImm c p u w l rn rd hi sh lo => Sys2Proof.Machine.execHalfwordSignedTransferImm c p u w l rn rd hi sh lo s
  | .blockDataTransfer c p u z w l rn list => Sys2Proof.Machine.execBlockDataTransfer c p u z w l rn list s
  | .singleDataSwap c z rn rd rm => Sys2Proof.Machine.execSingleDataSwap c z rn rd rm s
  | .moveFromPsr c z rd => Sys2Proof.Machine.execMoveFromPsr c z rd s
  | .moveToPsrReg c z rm => Sys2Proof.Machine.execMoveToPsrReg c z rm s
  | .moveToPsrFlags c k z sub => Sys2Proof.Machine.execMoveToPsrFlags c k z sub s
  | .dataProcessing c k op f rn rd sub => Sys2Proof.Machine.execDataProcessing c k op f rn rd sub s
  | .and c k f rn rd sub => Sys2Proof.Machine.execAnd c k f rn rd sub s
  | .eor c k f rn rd sub => Sys2Proof.Machine.execEor c k f rn rd sub s
  | .sub c k f rn rd sub => Sys2Proof.Machine.execSub c k f rn rd sub s
  | .rsb c k f rn rd sub => Sys2Proof.Machine.execRsb c k f rn rd sub s
  | .add c k f rn rd sub => Sys2Proof.Machine.execAdd c k f rn rd sub s
  | .adc c k f rn rd sub => Sys2Proof.Machine.execAdc c k f rn rd sub s
  | .sbc c k f rn rd sub => Sys2Proof.Machine.execSbc c k f rn rd sub s
  | .rsc c k f rn rd sub => Sys2Proof.Machine.execRsc c k f rn rd sub s
  | .tst c k f rn rd sub => Sys2Proof.Machine.execTst c k f rn rd sub s
  | .teq c k f rn rd sub => Sys2Proof.Machine.execTeq c k f rn rd sub s
  | .cmp c k f rn rd sub => Sys2Proof.Machine.execCmp c k f rn rd sub s
  | .cmn c k f rn rd sub => Sys2Proof.Machine.execCmn c k f rn rd sub s
  | .orr c k f rn rd sub => Sys2Proof.Machine.execOrr c k f rn rd sub s
  | .mov c k f rn rd sub => Sys2Proof.Machine.execMov c k f rn rd sub s
  | .bic c k f rn rd sub => Sys2Proof.Machine.execBic c k f rn rd sub s
  | .mvn c k f rn rd sub => Sys2Proof.Machine.execMvn c k f rn rd sub s
  | .noFormat c body => Sys2Proof.Machine.execNoFormat c body s
  | .reservedCondition body => Sys2Proof.Machine.execReservedCondition body s

end Sys2Proof.Machine
end

