-- ==== Sys2Proof/Machine/Step.lean ====
section
/-! DEFINITION. One step: the caller presents its next pair, the block reads the word and answers (R59, R157). -/

namespace Sys2Proof.Machine

/-- One evaluation of the block. It fetches nothing (R20): the word is the one on its input. -/
def step (s : State) : Host.Outcome State Fault Refusal := exec (decodeWord s.present.raw) s.present

/-- The state whose next step reads exactly this word: the word of the pair the next step presents, or, with nothing
pending, the word on the input. The address beside it stays (log entry 4). -/
def State.withFetchWord (s : State) (nbits w : Nat) : State :=
  match s.pending with
  | [] => { s with raw := tableWord nbits w }
  | p :: rest => { s with pending := { p with raw := tableWord nbits w } :: rest }

end Sys2Proof.Machine
end

