-- ==== Sys2Proof/Safety.lean ====
section
/-! DEFINITION. The terms statements use: the first-match regions of the formats (R81), bit by bit on the word, and
what a good answer is (R19, R51). -/

namespace Sys2Proof

/-- Rule 3's test, read bit by bit (R78). -/
def fitsMultiply (raw : Word) : Prop := slice raw 22 6 = 0b000000#6 ∧ slice raw 4 4 = 0b1001#4

/-- Rule 4's test (R78). -/
def fitsMultiplyLong (raw : Word) : Prop := slice raw 23 5 = 0b00001#5 ∧ slice raw 4 4 = 0b1001#4

/-- Rule 6's test (R78). -/
def fitsHalfwordReg (raw : Word) : Prop :=
  slice raw 25 3 = 0b000#3 ∧ bit raw 22 = false ∧ slice raw 8 4 = 0b0000#4 ∧ bit raw 7 = true ∧ bit raw 4 = true

/-- Rule 7's test (R78). -/
def fitsHalfwordImm (raw : Word) : Prop :=
  slice raw 25 3 = 0b000#3 ∧ bit raw 22 = true ∧ bit raw 7 = true ∧ bit raw 4 = true

/-- Rule 9's test (R78). -/
def fitsSwap (raw : Word) : Prop :=
  slice raw 23 5 = 0b00010#5 ∧ slice raw 20 2 = 0b00#2 ∧ slice raw 4 8 = 0b00001001#8

/-- Rule 10's test (R78). -/
def fitsMoveFromPsr (raw : Word) : Prop :=
  slice raw 23 5 = 0b00010#5 ∧ slice raw 16 6 = 0b001111#6 ∧ slice raw 0 12 = 0#12

/-- Rule 11's test (R78). -/
def fitsMoveToPsrReg (raw : Word) : Prop := slice raw 23 5 = 0b00010#5 ∧ slice raw 4 18 = 0b101001111100000000#18

/-- Rule 12's test (R78). -/
def fitsMoveToPsrFlags (raw : Word) : Prop :=
  slice raw 26 2 = 0b00#2 ∧ slice raw 23 2 = 0b10#2 ∧ slice raw 12 10 = 0b1010001111#10

/-- The test of a format's rule, read bit by bit (R78): the bits its mask tests and the values they must have. -/
def fits : Format → Word → Prop
  | .branchExchange, raw => slice raw 4 24 = 0x12FFF1#24
  | .branchLink, raw => slice raw 25 3 = 0b101#3
  | .multiply, raw => fitsMultiply raw
  | .multiplyLong, raw => fitsMultiplyLong raw
  | .singleDataTransfer, raw => slice raw 26 2 = 0b01#2
  | .halfwordSignedTransferReg, raw => fitsHalfwordReg raw
  | .halfwordSignedTransferImm, raw => fitsHalfwordImm raw
  | .blockDataTransfer, raw => slice raw 25 3 = 0b100#3
  | .singleDataSwap, raw => fitsSwap raw
  | .moveFromPsr, raw => fitsMoveFromPsr raw
  | .moveToPsrReg, raw => fitsMoveToPsrReg raw
  | .moveToPsrFlags, raw => fitsMoveToPsrFlags raw
  | .dataProcessing, raw => slice raw 26 2 = 0b00#2

/-- The first-match region of each format (R81): the exact condition on `raw[27:0]` under which the classifier returns
it, the order of the rules taken into account. -/
def region : Format → Word → Prop
  | .branchExchange, raw => slice raw 4 24 = 0x12FFF1#24
  | .branchLink, raw => slice raw 25 3 = 0b101#3
  | .multiply, raw => slice raw 22 6 = 0#6 ∧ slice raw 4 4 = 0b1001#4
  | .multiplyLong, raw => slice raw 23 5 = 0b00001#5 ∧ slice raw 4 4 = 0b1001#4
  | .singleDataTransfer, raw => slice raw 26 2 = 0b01#2
  | .halfwordSignedTransferReg, raw =>
    slice raw 25 3 = 0#3 ∧ bit raw 22 = false ∧ slice raw 8 4 = 0#4 ∧ bit raw 7 = true ∧ bit raw 4 = true ∧
      ¬ (slice raw 5 2 = 0b00#2 ∧ bit raw 24 = false)
  | .halfwordSignedTransferImm, raw =>
    slice raw 25 3 = 0#3 ∧ bit raw 22 = true ∧ bit raw 7 = true ∧ bit raw 4 = true ∧
      ¬ (slice raw 5 2 = 0b00#2 ∧ slice raw 23 2 = 0b01#2)
  | .blockDataTransfer, raw => slice raw 25 3 = 0b100#3
  | .singleDataSwap, _ => False
  | .moveFromPsr, raw => slice raw 23 5 = 0b00010#5 ∧ slice raw 16 6 = 0b001111#6 ∧ slice raw 0 12 = 0#12
  | .moveToPsrReg, raw => slice raw 23 5 = 0b00010#5 ∧ slice raw 4 18 = 0x29F00#18
  | .moveToPsrFlags, raw =>
    slice raw 26 2 = 0#2 ∧ slice raw 23 2 = 0b10#2 ∧ slice raw 12 10 = 0x28F#10 ∧
      ¬ (bit raw 25 = false ∧ bit raw 7 = true ∧ bit raw 4 = true ∧ (bit raw 22 = true ∨ slice raw 8 4 = 0#4))
  | .dataProcessing, raw =>
    slice raw 26 2 = 0#2 ∧ ¬ fits .branchExchange raw ∧ ¬ fitsMultiply raw ∧ ¬ fitsMultiplyLong raw ∧
      ¬ fitsHalfwordReg raw ∧ ¬ fitsHalfwordImm raw ∧ ¬ fitsMoveFromPsr raw ∧ ¬ fitsMoveToPsrReg raw ∧
      ¬ fitsMoveToPsrFlags raw

namespace Machine

/-- What R19 (b) to (e) says of a descriptor: its condition is that of its word and is not code 15,
its format is the classifier's for its word, its word is outside the space without a format, and it is no swap. -/
def Descriptor.Good (d : Descriptor) : Prop :=
  d.cond.code = slice d.raw 28 4 ∧ slice d.raw 28 4 ≠ 15#4 ∧ classify d.raw = some d.fmt ∧ slice d.raw 26 2 ≠ 0b11#2 ∧
    d.fmt ≠ .singleDataSwap

/-- An error that `decode` could have returned (R141, R142): never an invalid shift type (R143). -/
def DecodeError.Good : DecodeError → Prop
  | .reservedConditionCode code => code = 15#4
  | .unknownInstructionFormat word => slice word 28 4 ≠ 15#4 ∧ slice word 26 2 = 0b11#2
  | .invalidShiftType _ => False

/-- A good answer: none yet; or a good descriptor with the extractor outputs of its own word and format; or a good
error. -/
def Answer.Good : Answer → Prop
  | .noResult => True
  | .descriptor d x => Descriptor.Good d.toDescriptor ∧ x = extractAll d.fmt d.raw
  | .error e => DecodeError.Good e

/-- The invariant: the outputs are such as the block can give (R19, R140). It holds at reset and every step keeps it. -/
def State.Good (s : State) : Prop := s.answer.Good

end Machine

end Sys2Proof
end

