-- ==== Sys2Proof/Certificates/Slice0/Obligations.lean ====
section
/-! DEFINITION. The statements for the provers. Each docstring names the rule of spec/ it formalises; where a clause
rests on a decision of the spec, on an inference the spec marks as its own or on a choice of the model, it says so. -/

open Sys2Proof Sys2Proof.Machine

/-! ### Bit Accessor and arithmetic helpers -/

/-- R60: `bit(w, i) = ((w >> i) & 1) == 1`, equivalently `floor(w / 2^i) mod 2 == 1`. -/
def Obligations.BitReadsOneBit : Prop :=
  ∀ (w : Word) (i : Fin 32),
    bit w i = (((w >>> i.val) &&& 1#32) == 1#32) ∧ (bit w i = true ↔ w.toNat / 2 ^ i.val % 2 = 1)

/-- R61: on its whole domain `bit_range` is `floor(w / 2^lo) mod 2^(hi - lo)`, which is the shift and mask; bit `k` of the
result is bit `lo + k` of `w` below the width and 0 above it; the full range is the word. -/
def Obligations.BitRangeIsFloorMod : Prop :=
  ∀ (w : Word) (lo hi : Nat), lo ≤ hi → hi ≤ 32 →
    (bitRange w lo hi).toNat = w.toNat / 2 ^ lo % 2 ^ (hi - lo) ∧
    bitRange w lo hi = ((w >>> lo) &&& BitVec.ofNat 32 (2 ^ (hi - lo) - 1)) ∧
    (∀ k, (bitRange w lo hi).getLsbD k = (decide (k < hi - lo) && w.getLsbD (lo + k))) ∧
    bitRange w 0 32 = w

/-- The static instances of R62: every typed slice the model reads is the source's `bit_range` at those bounds. -/
def Obligations.SlicesAreBitRanges : Prop :=
  ∀ (w : Word) (lo n : Nat), lo + n ≤ 32 → (slice w lo n).setWidth 32 = bitRange w lo (lo + n)

/-- The laws (a), (d), (e) that R63 derives: a bit is a range of width 1; a range splits at any point inside it; and a
masked comparison holds exactly when every tested bit agrees. -/
def Obligations.BitAccessorLaws : Prop :=
  (∀ (w : Word) (i : Fin 32), bit w i = (bitRange w i.val (i.val + 1) == 1#32)) ∧
  (∀ (w : Word) (lo mid hi : Nat), lo ≤ mid → mid ≤ hi → hi ≤ 32 →
    (bitRange w lo hi).toNat = (bitRange w lo mid).toNat + 2 ^ (mid - lo) * (bitRange w mid hi).toNat) ∧
  (∀ (w m p : Word), p &&& m = p →
    (w &&& m = p ↔ ∀ i : Fin 32, bit m i = true → bit w i = bit p i))

/-- R64: the shift form and the arithmetic form of the 24-bit sign extension agree, and as a bit pattern the result is
eight copies of bit 23 above the field. -/
def Obligations.SignExtensionOfTwentyFourBits : Prop :=
  ∀ v : BitVec 24,
    sext24 v = asr32 (v.setWidth 32 <<< 8) 8 ∧
    (sext24 v).toInt = (if v.getLsbD 23 then (v.toNat : Int) - 2 ^ 24 else (v.toNat : Int)) ∧
    (∀ k, k < 32 → (sext24 v).getLsbD k = if k < 24 then v.getLsbD k else v.getLsbD 23) ∧
    -(2 ^ 23) ≤ (sext24 v).toInt ∧ (sext24 v).toInt ≤ 2 ^ 23 - 1

/-- The definition of R65 (from general knowledge, confirmed there by the source's example): `asr32` is division by a
power of two rounded toward minus infinity, and replicates the sign bit. -/
def Obligations.ArithmeticShiftRoundsDown : Prop :=
  ∀ (x : Word) (n : Nat), n ≤ 31 →
    (asr32 x n).toInt = Int.fdiv x.toInt (2 ^ n) ∧
    (∀ k, k < 32 → (asr32 x n).getLsbD k = if k + n < 32 then x.getLsbD (k + n) else x.getLsbD 31)

/-- The definition of R66 (from general knowledge): bit `k` of the rotated word is bit `(k + n) mod 32` of the word. -/
def Obligations.RotateRightMovesBits : Prop :=
  ∀ (v : Word) (n k : Nat), n ≤ 31 → k < 32 → (ror32 v n).getLsbD k = v.getLsbD ((k + n) % 32)

/-- The reading of R68 (two's complement by decision D22): `as_i32` is the two's-complement value, and `as_u32` of it
gives the pattern back. -/
def Obligations.SignedReadingIsTwosComplement : Prop :=
  ∀ v : Word, asI32 v = v.toInt ∧ -(2 ^ 31) ≤ asI32 v ∧ asI32 v < 2 ^ 31 ∧ asI32 v % 2 ^ 32 = (v.toNat : Int)

/-- R104: the displacement is the sign-extended 24-bit field times 4 plus 8, always a multiple of 4, in the range the
rule gives, and no other bit of the word enters it. -/
def Obligations.BranchDisplacement : Prop :=
  ∀ raw : Word,
    (branchOffset raw).toInt =
      (if bit raw 23 then ((slice raw 0 24).toNat : Int) - 2 ^ 24 else ((slice raw 0 24).toNat : Int)) * 4 + 8 ∧
    (branchOffset raw).toInt % 4 = 0 ∧
    -33554424 ≤ (branchOffset raw).toInt ∧ (branchOffset raw).toInt ≤ 33554436 ∧
    (∀ raw' : Word, slice raw' 0 24 = slice raw 0 24 → branchOffset raw' = branchOffset raw)

/-! ### Condition Decoder -/

/-- R71, row by row; the fifteen results are pairwise distinct and carry their code, so the code of a descriptor's
condition is its word's field; and R72: that field is never 15. -/
def Obligations.ConditionTableRows : Prop :=
  decodeCondition 0#4 = .ok .equal ∧ decodeCondition 1#4 = .ok .notEqual ∧
  decodeCondition 2#4 = .ok .unsignedHigherOrSame ∧ decodeCondition 3#4 = .ok .unsignedLower ∧
  decodeCondition 4#4 = .ok .negative ∧ decodeCondition 5#4 = .ok .positiveOrZero ∧
  decodeCondition 6#4 = .ok .overflow ∧ decodeCondition 7#4 = .ok .noOverflow ∧
  decodeCondition 8#4 = .ok .unsignedHigher ∧ decodeCondition 9#4 = .ok .unsignedLowerOrSame ∧
  decodeCondition 10#4 = .ok .greaterOrEqual ∧ decodeCondition 11#4 = .ok .lessThan ∧
  decodeCondition 12#4 = .ok .greaterThan ∧ decodeCondition 13#4 = .ok .lessThanOrEqual ∧
  decodeCondition 14#4 = .ok .always ∧ decodeCondition 15#4 = .error (.reservedConditionCode 15#4) ∧
  (∀ (code : BitVec 4) (c : Condition), decodeCondition code = .ok c ↔ c.code = code) ∧
  (∀ (raw addr : Word) (d : DecodedDescriptor), blockDecode raw addr = .ok d →
    d.cond.code = slice d.raw 28 4 ∧ slice d.raw 28 4 ≠ 15#4)

/-! ### Format Classifier -/

/-- R76, for any rule list: the format of the lowest-numbered rule that matches, and no match exactly when none does;
`decode` then answers the error that carries the word. -/
def Obligations.ClassifierTakesFirstMatch : Prop :=
  ∀ (rules : List Rule) (raw : Word),
    (∀ f, classifyWith rules raw = some f ↔
      ∃ (k : Nat) (r : Rule), rules[k]? = some r ∧ r.format = f ∧ raw &&& r.mask = r.pattern ∧
        ∀ (j : Nat) (q : Rule), j < k → rules[j]? = some q → raw &&& q.mask ≠ q.pattern) ∧
    (classifyWith rules raw = none ↔ ∀ r ∈ rules, raw &&& r.mask ≠ r.pattern) ∧
    (∀ addr : Word, slice raw 28 4 ≠ 15#4 → classifyWith rules raw = none →
      decodeRecordWith rules raw addr = .error (.unknownInstructionFormat raw))

/-- The first-match regions R81 derives from the literal table, whole: for every word and every format, the classifier
answers the format exactly on its region, and answers nothing exactly when `raw[27:26] == 11` (R84). -/
def Obligations.FirstMatchRegions : Prop :=
  ∀ raw : Word, (∀ f : Format, classify raw = some f ↔ region f raw) ∧ (classify raw = none ↔ slice raw 26 2 = 0b11#2)

/-- What R82 derives: no word is classified Single Data Swap, and a word of a swap's shape is a halfword transfer, by
`raw[22]`; with the flags that R128 tells a caller to recognise it by. -/
def Obligations.SwapWordsAreHalfwordTransfers : Prop :=
  ∀ raw : Word, classify raw ≠ some .singleDataSwap ∧
    (fitsSwap raw → bit raw 22 = false → classify raw = some .halfwordSignedTransferReg) ∧
    (fitsSwap raw → bit raw 22 = true → classify raw = some .halfwordSignedTransferImm) ∧
    (fitsSwap raw → preIndexFlag raw = true ∧ addOffsetFlag raw = false ∧ writeBackFlag raw = false ∧
      loadFlag raw = false ∧ slice raw 5 2 = 0b00#2 ∧ slice raw 8 4 = 0#4)

/-- Decision D13: under the repaired rule order exactly the words of a swap's shape change format, and they become
Single Data Swap. -/
def Obligations.RepairedOrderChangesExactlySwaps : Prop :=
  ∀ raw : Word,
    (fitsSwap raw → classifyWith Config.classifierRulesRepaired raw = some .singleDataSwap) ∧
    (¬ fitsSwap raw → classifyWith Config.classifierRulesRepaired raw = classify raw)

/-- The list of overlapping rules that R80 derives: an earlier and a later rule have a word in common exactly when they
are one of its sixteen pairs (rules numbered from 1). -/
def Obligations.OverlappingRulePairs : Prop :=
  ∀ (j k : Nat) (r q : Rule), j < k → Config.classifierRules[j]? = some r → Config.classifierRules[k]? = some q →
    ((∃ raw : Word, raw &&& r.mask = r.pattern ∧ raw &&& q.mask = q.pattern) ↔
      (j + 1, k + 1) ∈ [(1, 13), (3, 6), (3, 13), (4, 6), (4, 7), (4, 13), (6, 9), (6, 12), (6, 13), (7, 9), (7, 12),
        (7, 13), (9, 13), (10, 13), (11, 13), (12, 13)])

/-- What R88 and R97 derive: neither the classifier nor any extractor reads the condition field `raw[31:28]`. -/
def Obligations.ConditionFieldFeedsOnlyTheCondition : Prop :=
  ∀ raw raw' : Word, slice raw 0 28 = slice raw' 0 28 →
    classify raw = classify raw' ∧ ∀ f : Format, extractAll f raw = extractAll f raw'

/-! ### The top-level operation -/

/-- R53, R144: the three outcomes by priority; the condition first, then the format, and no partial descriptor. -/
def Obligations.DecodePriority : Prop :=
  ∀ raw addr : Word,
    (slice raw 28 4 = 15#4 → blockDecode raw addr = .err (.reservedConditionCode 15#4)) ∧
    (slice raw 28 4 ≠ 15#4 → classify raw = none → blockDecode raw addr = .err (.unknownInstructionFormat raw)) ∧
    (∀ f : Format, slice raw 28 4 ≠ 15#4 → classify raw = some f →
      ∃ d : DecodedDescriptor, blockDecode raw addr = .ok d ∧ d.cond.code = slice raw 28 4 ∧ d.fmt = f ∧ d.raw = raw ∧
        d.pc = addr)

/-- The exact sets of R52, R141 to R143 (the second with the inference R84): which words fail, with which error, for
every address; and no word fails with an invalid shift type. -/
def Obligations.DecodeErrorsExactly : Prop :=
  ∀ (raw addr : Word) (e : DecodeError),
    blockDecode raw addr = .err e ↔
      (slice raw 28 4 = 15#4 ∧ e = .reservedConditionCode 15#4) ∨
      (slice raw 28 4 ≠ 15#4 ∧ slice raw 26 2 = 0b11#2 ∧ e = .unknownInstructionFormat raw)

/-- The counts R55 derives, over all 2^32 words and for every address: how many words give each outcome. -/
def Obligations.OutcomeCounts : Prop :=
  ∀ addr : Word,
    Nat.count (fun n => blockDecode (BitVec.ofNat 32 n) addr = .err (.reservedConditionCode 15#4)) (2 ^ 32) = 2 ^ 28 ∧
    Nat.count (fun n => blockDecode (BitVec.ofNat 32 n) addr = .err (.unknownInstructionFormat (BitVec.ofNat 32 n))) (2 ^ 32) =
      15 * 2 ^ 26 ∧
    Nat.count (fun n => DecodeResult.isOk (blockDecode (BitVec.ofNat 32 n) addr) = true) (2 ^ 32) = 3019898880

/-- R54 with the invariants R19 (b) to (e) derives: a descriptor that `decode` returns carries its inputs unchanged; and
every descriptor there is is one that `decode` returns from its own word and address, so it has a condition with the code
of its word, not 15, the classifier's format, a word outside the space without a format, and is no swap. -/
def Obligations.DecodedDescriptorsAreGood : Prop :=
  (∀ (raw addr : Word) (d : DecodedDescriptor), blockDecode raw addr = .ok d → d.raw = raw ∧ d.pc = addr) ∧
  (∀ d : DecodedDescriptor, blockDecode d.raw d.pc = .ok d ∧ Descriptor.Good d.toDescriptor)

/-- R14's use of the address: two addresses give the same success or failure, and the same descriptor but for `pc`. -/
def Obligations.AddressReachesOnlyPc : Prop :=
  ∀ raw a b : Word,
    (∀ e, blockDecode raw a = .err e → blockDecode raw b = .err e) ∧
    (∀ d, blockDecode raw a = .ok d → d.pc = a ∧
      ∃ d', blockDecode raw b = .ok d' ∧ d'.toDescriptor = { d.toDescriptor with pc := b })

/-! ### Shift/Operand Decoder -/

/-- R91 with the type codes of R92 (decision D7, log entry 11), from a sub-field composed of its parts: an immediate shift
records its 5-bit amount as it stands, 0 included (decision D25, log entry 18); a register shift records the index and
ignores bit 7. -/
def Obligations.ShiftDescriptors : Prop :=
  (∀ (amount : BitVec 5) (t : BitVec 2) (rm : Reg),
    decodeShift (BitVec.ofNat 12 (amount.toNat * 128 + t.toNat * 32 + rm.toNat)) = .immediateShift amount (shiftType t)) ∧
  (∀ (rs : Reg) (b7 : Bool) (t : BitVec 2) (rm : Reg),
    decodeShift (BitVec.ofNat 12 (rs.toNat * 256 + b7.toNat * 128 + t.toNat * 32 + 16 + rm.toNat)) =
      .registerShift rs (shiftType t)) ∧
  shiftType 0b00#2 = .logicalLeft ∧ shiftType 0b01#2 = .logicalRight ∧ shiftType 0b10#2 = .arithmeticRight ∧
  shiftType 0b11#2 = .rotateRight

/-- R94: bit 25 set gives the rotated immediate with the doubled amount (decision D24, log entry 18), clear the shifted
register; and a rotated immediate has an even amount, 0 to 30 (R12), each of which some word gives. -/
def Obligations.SecondOperandForms : Prop :=
  (∀ raw : Word,
    (bit raw 25 = true → ∃ imm8 rotate, operand2 raw = .rotatedImmediate imm8 rotate ∧
      imm8.toNat = raw.toNat % 256 ∧ rotate.amount.toNat = 2 * (raw.toNat / 256 % 16)) ∧
    (bit raw 25 = false → ∃ rm, operand2 raw = .shiftedRegister rm (decodeShift (slice raw 0 12)) ∧
      rm.toNat = raw.toNat % 16)) ∧
  (∀ (imm8 : BitVec 8) (rotate : RotateAmount), rotate.amount.toNat % 2 = 0 ∧ rotate.amount.toNat ≤ 30 ∧
    ∃ raw : Word, operand2 raw = .rotatedImmediate imm8 rotate)

/-- R95 for both polarities of its selector (the default, 1 selects the register, is decision D9, log entry 14). -/
def Obligations.OffsetFormsForBothPolarities : Prop :=
  (∀ (p : Bool) (raw : Word),
    (bit raw 25 = p → ∃ rm, offsetWith p raw = .shiftedRegister rm (decodeShift (slice raw 0 12)) ∧ rm.toNat = raw.toNat % 16) ∧
    (bit raw 25 ≠ p → ∃ v, offsetWith p raw = .immediateValue v ∧ v.toNat = raw.toNat % 4096)) ∧
  (∀ raw : Word, offset raw = offsetWith true raw)

/-- R96: the value of a rotated immediate is the zero-extended byte rotated right, bit by bit, read as signed (the rotation
is the spec's definition from general knowledge, log entry 22). That the block outputs this value beside `operand2`
exactly when `operand2` is a rotated immediate, for every format, is the model's choice (DESIGN CHOICE, log entry 9). -/
def Obligations.RotatedImmediateValues : Prop :=
  (∀ (imm8 : BitVec 8) (rotate : RotateAmount) (k : Nat), k < 32 →
    (rotatedImmediateValue imm8 rotate).getLsbD k = imm8.getLsbD ((k + rotate.amount.toNat) % 32)) ∧
  (∀ (imm8 : BitVec 8) (rotate : RotateAmount), rotate.amount = 0#5 →
    (rotatedImmediateValue imm8 rotate).toInt = (imm8.toNat : Int)) ∧
  (∀ (f : Format) (raw : Word),
    (∀ imm8 rotate, operand2 raw = .rotatedImmediate imm8 rotate →
      (extractAll f raw).operand2Value = some (rotatedImmediateValue imm8 rotate)) ∧
    ((extractAll f raw).operand2Value = none ↔ bit raw 25 = false))

/-- What R99 derives: the operand value loses one bit of `raw[25]`, `raw[11:0]` at most, bit 7 of a register-specified
shift; two words have the same second operand exactly when they agree on all the other bits. The same of `offset`, whose
register form is the one with bit 25 set by the polarity of decision D9 (PRESUMED, log entry 14). -/
def Obligations.OperandsLoseOnlyBitSeven : Prop :=
  (∀ raw raw' : Word, operand2 raw = operand2 raw' ↔
    bit raw 25 = bit raw' 25 ∧
      ∀ k, k < 12 → (k = 7 ∧ bit raw 25 = false ∧ bit raw 4 = true) ∨ raw.getLsbD k = raw'.getLsbD k) ∧
  (∀ raw raw' : Word, offset raw = offset raw' ↔
    bit raw 25 = bit raw' 25 ∧
      ∀ k, k < 12 → (k = 7 ∧ bit raw 25 = true ∧ bit raw 4 = true) ∨ raw.getLsbD k = raw'.getLsbD k)

/-! ### Field Extractors -/

/-- R100, R101, R102: the four cases of the base register, the two of the destination, the one of the operand register,
as numbers; the operand register is the base of a Branch-and-Exchange and the register of a shifted-register operand. -/
def Obligations.RegisterIndices : Prop :=
  ∀ (f : Format) (raw : Word),
    (rn .multiply raw).toNat = raw.toNat / 2 ^ 12 % 16 ∧ (rn .multiplyLong raw).toNat = raw.toNat / 2 ^ 8 % 16 ∧
    (rn .branchExchange raw).toNat = raw.toNat % 16 ∧
    (f ≠ .multiply → f ≠ .multiplyLong → f ≠ .branchExchange → (rn f raw).toNat = raw.toNat / 2 ^ 16 % 16) ∧
    (rd .multiply raw).toNat = raw.toNat / 2 ^ 16 % 16 ∧
    (f ≠ .multiply → (rd f raw).toNat = raw.toNat / 2 ^ 12 % 16) ∧
    (rm raw).toNat = raw.toNat % 16 ∧ rn .branchExchange raw = rm raw ∧
    (∀ m sh, operand2 raw = .shiftedRegister m sh ∨ offset raw = .shiftedRegister m sh → m = rm raw)

/-- R103: the sixteen codes and the sixteen operations correspond one to one, and 13 is MOV (the other names are decision
D8). -/
def Obligations.OpcodesAreABijection : Prop :=
  (∀ op : OpCode, OpCode.ofCode op.code = op) ∧ (∀ code : BitVec 4, (OpCode.ofCode code).code = code) ∧
  OpCode.ofCode 13#4 = .mov ∧ (∀ raw : Word, (opcode raw).code.toNat = raw.toNat / 2 ^ 21 % 16)

/-- The bits of R105 to R111, and the size of R107 in bytes (the names of the values of bits 23 and 24 are decision
D29). -/
def Obligations.FlagsAreSingleBits : Prop :=
  ∀ raw : Word,
    (loadFlag raw = true ↔ raw.toNat / 2 ^ 20 % 2 = 1) ∧ setCondFlag raw = loadFlag raw ∧
    (writeBackFlag raw = true ↔ raw.toNat / 2 ^ 21 % 2 = 1) ∧
    TransferSize.bytes (transferSize raw) = (if raw.toNat / 2 ^ 22 % 2 = 1 then 1 else 4) ∧
    (psrFlag raw = true ↔ raw.toNat / 2 ^ 22 % 2 = 1) ∧
    (addOffsetFlag raw = true ↔ raw.toNat / 2 ^ 23 % 2 = 1) ∧
    (preIndexFlag raw = true ↔ raw.toNat / 2 ^ 24 % 2 = 1) ∧ linkFlag raw = preIndexFlag raw ∧
    (immediateSelect raw = true ↔ raw.toNat / 2 ^ 25 % 2 = 1)

/-- The matrix of R116, cell by cell, and the scoped reading of it (R58 (c), R115). For each of the sixteen extractors, the
formats for which the source states a meaning (its S cells), then those paired by general knowledge (its g cells; log entry
23); every other cell has no meaning. A scoped reading gives back whatever value it is given where the word's cell has a
meaning, and nothing elsewhere; `rm` of a data-processing word or of a flags move has none when `raw[25] == 1`. -/
def Obligations.ScopedReadings : Prop :=
  (∀ row ∈ ([
      (.rn, [.branchExchange, .multiply, .multiplyLong, .singleDataTransfer, .halfwordSignedTransferReg,
        .halfwordSignedTransferImm, .blockDataTransfer, .singleDataSwap, .dataProcessing], []),
      (.rd, [.multiply, .multiplyLong, .singleDataTransfer, .halfwordSignedTransferReg, .halfwordSignedTransferImm,
        .singleDataSwap, .moveFromPsr, .dataProcessing], []),
      (.rm, [], [.branchExchange, .multiply, .multiplyLong, .singleDataTransfer, .halfwordSignedTransferReg,
        .singleDataSwap, .moveToPsrReg, .moveToPsrFlags, .dataProcessing]),
      (.opcode, [.dataProcessing], []),
      (.branchOffset, [.branchLink], []),
      (.loadFlag, [.singleDataTransfer, .halfwordSignedTransferReg, .halfwordSignedTransferImm, .blockDataTransfer], []),
      (.setCondFlag, [.dataProcessing], [.multiply, .multiplyLong]),
      (.writeBackFlag, [], [.singleDataTransfer, .halfwordSignedTransferReg, .halfwordSignedTransferImm, .blockDataTransfer]),
      (.transferSize, [], [.singleDataTransfer, .singleDataSwap]),
      (.psrFlag, [], [.blockDataTransfer, .moveFromPsr, .moveToPsrReg, .moveToPsrFlags]),
      (.addOffsetFlag, [], [.singleDataTransfer, .halfwordSignedTransferReg, .halfwordSignedTransferImm, .blockDataTransfer]),
      (.preIndexFlag, [], [.singleDataTransfer, .halfwordSignedTransferReg, .halfwordSignedTransferImm, .blockDataTransfer]),
      (.linkFlag, [.branchLink], []),
      (.registerList, [.blockDataTransfer], []),
      (.operand2, [.dataProcessing], [.moveToPsrFlags]),
      (.offset, [], [.singleDataTransfer])] : List (Extractor × List Format × List Format)),
    ∀ f : Format,
      (applicability row.1 f = .stated ↔ f ∈ row.2.1) ∧ (applicability row.1 f = .general ↔ f ∈ row.2.2) ∧
      (∀ (α : Type) (raw : Word) (v : α),
        ((f ∈ row.2.1 ∨ f ∈ row.2.2) ∧
          ¬ (row.1 = .rm ∧ bit raw 25 = true ∧ (f = .dataProcessing ∨ f = .moveToPsrFlags)) →
            scopedTo row.1 f raw v = some v) ∧
        (¬ (f ∈ row.2.1 ∨ f ∈ row.2.2) ∨
          (row.1 = .rm ∧ bit raw 25 = true ∧ (f = .dataProcessing ∨ f = .moveToPsrFlags)) →
            scopedTo row.1 f raw v = none)))

/-- R112: the list is strictly ascending, holds exactly the indices of the set bits of `raw[15:0]`, and its length is
their number, 0 to 16. -/
def Obligations.RegisterListIsAscending : Prop :=
  ∀ raw : Word,
    (registerList raw).Pairwise (fun a b => a.toNat < b.toNat) ∧
    (∀ k : Reg, k ∈ registerList raw ↔ raw.getLsbD k.toNat = true) ∧
    (registerList raw).length = ((List.range 16).map fun k => (raw.getLsbD k).toNat).sum ∧
    (registerList raw).length ≤ 16

/-! ### The instructions: what each outputs, that it completes, and its frame

Each says that `exec` ANSWERS A NEXT STATE, for every state and every operand of a word that reaches the row: the state
with the answer replaced and nothing else (both inputs and the pending pairs stay as they were). A term whose word an
earlier rule takes (R81) means what that word's own row means: `FormatRowsAgreeWithRefinedRows` says so of every term. -/

/-- R120 (BranchExchange). Selected exactly when `raw[27:4] == 0x12FFF1`; outputs `rn = rm = raw[3:0]`. No index is
refused. -/
def Obligations.BranchExchangeOutputs : Prop :=
  (∀ raw : Word, classify raw = some .branchExchange ↔ slice raw 4 24 = 0x12FFF1#24) ∧
  (∀ (c : Condition) (r : Reg) (s : State), ∃ (y : DecodedDescriptor) (x : Extracted),
    exec (.branchExchange c r) s = .next (s.withAnswer (.descriptor y x)) ∧
    y.toDescriptor = ⟨c, .branchExchange, encode (.branchExchange c r), s.addr⟩ ∧
    x.rn = r ∧ x.rm = r)

/-- R121 (BranchLink, B, BL). Selected exactly when `raw[27:25] == 101`; outputs the link bit and the displacement
`sext_24(field) * 4 + 8`. The refined rows B and BL output what the format row does with its link bit 0 and 1. -/
def Obligations.BranchOutputs : Prop :=
  (∀ raw : Word, classify raw = some .branchLink ↔ slice raw 25 3 = 0b101#3) ∧
  (∀ (c : Condition) (link : Bool) (field : BitVec 24) (s : State), ∃ (y : DecodedDescriptor) (x : Extracted),
    exec (.branchLink c link field) s = .next (s.withAnswer (.descriptor y x)) ∧
    y.toDescriptor = ⟨c, .branchLink, encode (.branchLink c link field), s.addr⟩ ∧
    x.preIndexFlag = link ∧
    x.branchOffset.toInt = (if field.getLsbD 23 then (field.toNat : Int) - 2 ^ 24 else (field.toNat : Int)) * 4 + 8) ∧
  (∀ (c : Condition) (field : BitVec 24) (s : State),
    exec (.b c field) s = exec (.branchLink c false field) s ∧ exec (.bl c field) s = exec (.branchLink c true field) s)

/-- R122 (Multiply). Selected exactly when `raw[27:22] == 0` and `raw[7:4] == 1001`; outputs `rd`, `rn`, `rm`, and the
bits 21 and 20 through the general accessors. -/
def Obligations.MultiplyOutputs : Prop :=
  (∀ raw : Word, classify raw = some .multiply ↔ slice raw 22 6 = 0#6 ∧ slice raw 4 4 = 0b1001#4) ∧
  (∀ (c : Condition) (w f : Bool) (d n rs m : Reg) (s : State), ∃ (y : DecodedDescriptor) (x : Extracted),
    exec (.multiply c w f d n rs m) s = .next (s.withAnswer (.descriptor y x)) ∧
    y.toDescriptor = ⟨c, .multiply, encode (.multiply c w f d n rs m), s.addr⟩ ∧
    x.rd = d ∧ x.rn = n ∧ x.rm = m ∧ x.writeBackFlag = w ∧ x.loadFlag = f)

/-- R123 (MultiplyLong). Selected exactly when `raw[27:23] == 00001` and `raw[7:4] == 1001`; outputs `rn = raw[11:8]`,
`rd = raw[15:12]`, `rm`, and the bits 22 to 20. -/
def Obligations.MultiplyLongOutputs : Prop :=
  (∀ raw : Word, classify raw = some .multiplyLong ↔ slice raw 23 5 = 0b00001#5 ∧ slice raw 4 4 = 0b1001#4) ∧
  (∀ (c : Condition) (u w f : Bool) (hi d n m : Reg) (s : State), ∃ (y : DecodedDescriptor) (x : Extracted),
    exec (.multiplyLong c u w f hi d n m) s = .next (s.withAnswer (.descriptor y x)) ∧
    y.toDescriptor = ⟨c, .multiplyLong, encode (.multiplyLong c u w f hi d n m), s.addr⟩ ∧
    x.rn = n ∧ x.rd = d ∧ x.rm = m ∧ x.psrFlag = u ∧ x.writeBackFlag = w ∧ x.loadFlag = f)

/-- R124 (SingleDataTransfer). Selected exactly when `raw[27:26] == 01`; outputs base, register, offset, five flags and
the size, and bit 25 as a flag (R111; that it is an output is the model's choice, log entry 27); the polarities of bits
25, 24 and 23 are decisions D9 and D29 (log entries 14 and 19). -/
def Obligations.SingleDataTransferOutputs : Prop :=
  (∀ raw : Word, classify raw = some .singleDataTransfer ↔ slice raw 26 2 = 0b01#2) ∧
  (∀ (c : Condition) (k p u z w l : Bool) (n d : Reg) (sub : BitVec 12) (s : State), ∃ (y : DecodedDescriptor) (x : Extracted),
    exec (.singleDataTransfer c k p u z w l n d sub) s = .next (s.withAnswer (.descriptor y x)) ∧
    y.toDescriptor = ⟨c, .singleDataTransfer, encode (.singleDataTransfer c k p u z w l n d sub), s.addr⟩ ∧
    x.rn = n ∧ x.rd = d ∧
    x.immediateSelect = k ∧
    x.offset = (if k then .shiftedRegister (sub.setWidth 4) (decodeShift sub) else .immediateValue sub) ∧
    x.preIndexFlag = p ∧ x.addOffsetFlag = u ∧ x.transferSize = (if z then .oneByte else .fourBytes) ∧
    x.writeBackFlag = w ∧ x.loadFlag = l)

/-- R125 (HalfwordSignedTransferReg). Its region is that of R81 row 6; outputs base, register, offset register, four
flags, for the operands R125 selects: not `raw[24] == 0` with `raw[6:5] == 00`, which go to the multiply rules. -/
def Obligations.HalfwordRegisterOutputs : Prop :=
  (∀ raw : Word, classify raw = some .halfwordSignedTransferReg ↔
    slice raw 25 3 = 0#3 ∧ bit raw 22 = false ∧ slice raw 8 4 = 0#4 ∧ bit raw 7 = true ∧ bit raw 4 = true ∧
      ¬ (bit raw 24 = false ∧ slice raw 5 2 = 0b00#2)) ∧
  (∀ (c : Condition) (p u w l : Bool) (n d : Reg) (sh : BitVec 2) (m : Reg) (s : State),
    ¬ (p = false ∧ sh = 0b00#2) → ∃ (y : DecodedDescriptor) (x : Extracted),
    exec (.halfwordSignedTransferReg c p u w l n d sh m) s = .next (s.withAnswer (.descriptor y x)) ∧
    y.toDescriptor = ⟨c, .halfwordSignedTransferReg, encode (.halfwordSignedTransferReg c p u w l n d sh m), s.addr⟩ ∧
    x.rn = n ∧ x.rd = d ∧ x.rm = m ∧ x.preIndexFlag = p ∧ x.addOffsetFlag = u ∧ x.writeBackFlag = w ∧ x.loadFlag = l)

/-- R126 (HalfwordSignedTransferImm). Its region is that of R81 row 7; outputs base, register, four flags; the general
accessors give size 1 for every word of the format and the low nibble as `rm`. For the operands R126 selects: not
`raw[24:23] == 01` with `raw[6:5] == 00`, which go to rule 4. -/
def Obligations.HalfwordImmediateOutputs : Prop :=
  (∀ raw : Word, classify raw = some .halfwordSignedTransferImm ↔
    slice raw 25 3 = 0#3 ∧ bit raw 22 = true ∧ bit raw 7 = true ∧ bit raw 4 = true ∧
      ¬ (slice raw 23 2 = 0b01#2 ∧ slice raw 5 2 = 0b00#2)) ∧
  (∀ (c : Condition) (p u w l : Bool) (n d : Reg) (hi : BitVec 4) (sh : BitVec 2) (lo : BitVec 4) (s : State),
    ¬ (p = false ∧ u = true ∧ sh = 0b00#2) → ∃ (y : DecodedDescriptor) (x : Extracted),
    exec (.halfwordSignedTransferImm c p u w l n d hi sh lo) s = .next (s.withAnswer (.descriptor y x)) ∧
    y.toDescriptor =
      ⟨c, .halfwordSignedTransferImm, encode (.halfwordSignedTransferImm c p u w l n d hi sh lo), s.addr⟩ ∧
    x.rn = n ∧ x.rd = d ∧ x.preIndexFlag = p ∧ x.addOffsetFlag = u ∧ x.writeBackFlag = w ∧ x.loadFlag = l ∧
    x.transferSize = .oneByte ∧ x.rm = lo)

/-- R127 (BlockDataTransfer). Selected exactly when `raw[27:25] == 100`; outputs base, ascending register list (the empty
list included), five flags. -/
def Obligations.BlockDataTransferOutputs : Prop :=
  (∀ raw : Word, classify raw = some .blockDataTransfer ↔ slice raw 25 3 = 0b100#3) ∧
  (∀ (c : Condition) (p u z w l : Bool) (n : Reg) (list : BitVec 16) (s : State), ∃ (y : DecodedDescriptor) (x : Extracted),
    exec (.blockDataTransfer c p u z w l n list) s = .next (s.withAnswer (.descriptor y x)) ∧
    y.toDescriptor = ⟨c, .blockDataTransfer, encode (.blockDataTransfer c p u z w l n list), s.addr⟩ ∧
    x.rn = n ∧ x.rd = list.extractLsb' 12 4 ∧ x.registerList.Pairwise (fun a b => a.toNat < b.toNat) ∧
    (∀ k : Reg, k ∈ x.registerList ↔ list.getLsbD k.toNat = true) ∧ (x.registerList = [] ↔ list = 0#16) ∧
    x.preIndexFlag = p ∧ x.addOffsetFlag = u ∧ x.psrFlag = z ∧ x.writeBackFlag = w ∧ x.loadFlag = l)

/-- R128 (SingleDataSwap): the format is never selected under the literal table; a swap word is answered as a halfword
transfer, the register form when `raw[22]` is clear and the immediate form when set, with the outputs of R128's table.
Were the format produced, as the repaired rule list of decision D13 produces it, the outputs would be the general clauses:
base, destination, source, size (log entry 13). -/
def Obligations.SingleDataSwapOutputs : Prop :=
  (∀ (c : Condition) (z : Bool) (n d m : Reg) (s : State), ∃ (y : DecodedDescriptor) (x : Extracted),
    exec (.singleDataSwap c z n d m) s = .next (s.withAnswer (.descriptor y x)) ∧
    y.toDescriptor = ⟨c, if z then .halfwordSignedTransferImm else .halfwordSignedTransferReg,
      encode (.singleDataSwap c z n d m), s.addr⟩ ∧
    x.rn = n ∧ x.rd = d ∧ x.rm = m ∧ x.preIndexFlag = true ∧ x.addOffsetFlag = false ∧ x.writeBackFlag = false ∧
    x.loadFlag = false) ∧
  (∀ (c : Condition) (z : Bool) (n d m : Reg) (addr : Word), ∃ w : Word, w = encode (.singleDataSwap c z n d m) ∧
    decodeRecordWith Config.classifierRulesRepaired w addr = .ok ⟨c, .singleDataSwap, w, addr⟩ ∧
    (extractAll .singleDataSwap w).rn = n ∧ (extractAll .singleDataSwap w).rd = d ∧ (extractAll .singleDataSwap w).rm = m ∧
    (extractAll .singleDataSwap w).transferSize = (if z then .oneByte else .fourBytes))

/-- R129 (MoveFromPsr). Selected exactly on its 32 bodies; outputs `rd` and which PSR; `rn` reads 15. -/
def Obligations.MoveFromPsrOutputs : Prop :=
  (∀ raw : Word, classify raw = some .moveFromPsr ↔
    slice raw 23 5 = 0b00010#5 ∧ slice raw 16 6 = 0b001111#6 ∧ slice raw 0 12 = 0#12) ∧
  (∀ (c : Condition) (z : Bool) (d : Reg) (s : State), ∃ (y : DecodedDescriptor) (x : Extracted),
    exec (.moveFromPsr c z d) s = .next (s.withAnswer (.descriptor y x)) ∧
    y.toDescriptor = ⟨c, .moveFromPsr, encode (.moveFromPsr c z d), s.addr⟩ ∧
    x.rd = d ∧ x.psrFlag = z ∧ x.rn = 15#4)

/-- R130 (MoveToPsrReg). Selected exactly on its 32 bodies; outputs `rm` and which PSR; `rn` reads 9 and `rd` 15. -/
def Obligations.MoveToPsrRegisterOutputs : Prop :=
  (∀ raw : Word, classify raw = some .moveToPsrReg ↔ slice raw 23 5 = 0b00010#5 ∧ slice raw 4 18 = 0x29F00#18) ∧
  (∀ (c : Condition) (z : Bool) (m : Reg) (s : State), ∃ (y : DecodedDescriptor) (x : Extracted),
    exec (.moveToPsrReg c z m) s = .next (s.withAnswer (.descriptor y x)) ∧
    y.toDescriptor = ⟨c, .moveToPsrReg, encode (.moveToPsrReg c z m), s.addr⟩ ∧
    x.rm = m ∧ x.psrFlag = z ∧ x.rn = 9#4 ∧ x.rd = 15#4)

/-- R131 (MoveToPsrFlags). Its region is that of R81 row 12; outputs which PSR, bit 25 as a flag (R111), and the source
operand, an immediate or a register by bit 25, for the operands R131 selects: not the register form with `raw[7]` and
`raw[4]` set and `raw[22] == 1` or `raw[11:8] == 0`, which go to rules 6 and 7. That bit 25 is an output of its own is the
model's choice (log entry 27). -/
def Obligations.MoveToPsrFlagsOutputs : Prop :=
  (∀ raw : Word, classify raw = some .moveToPsrFlags ↔
    slice raw 26 2 = 0#2 ∧ slice raw 23 2 = 0b10#2 ∧ slice raw 12 10 = 0x28F#10 ∧
      ¬ (bit raw 25 = false ∧ bit raw 7 = true ∧ bit raw 4 = true ∧ (bit raw 22 = true ∨ slice raw 8 4 = 0#4))) ∧
  (∀ (c : Condition) (k z : Bool) (sub : BitVec 12) (s : State),
    ¬ (k = false ∧ sub.getLsbD 7 = true ∧ sub.getLsbD 4 = true ∧ (z = true ∨ sub.extractLsb' 8 4 = 0#4)) →
    ∃ (y : DecodedDescriptor) (x : Extracted),
    exec (.moveToPsrFlags c k z sub) s = .next (s.withAnswer (.descriptor y x)) ∧
    y.toDescriptor = ⟨c, .moveToPsrFlags, encode (.moveToPsrFlags c k z sub), s.addr⟩ ∧
    x.psrFlag = z ∧ x.immediateSelect = k ∧ x.rm = sub.setWidth 4 ∧
    (k = true → ∃ r : RotateAmount, x.operand2 = .rotatedImmediate (sub.setWidth 8) r ∧ r.amount.toNat = 2 * (sub.toNat / 256)) ∧
    (k = false → x.operand2 = .shiftedRegister (sub.setWidth 4) (decodeShift sub)))

/-- R132 (DataProcessing, AND, EOR, SUB, RSB, ADD, ADC, SBC, RSC, TST, TEQ, CMP, CMN, ORR, MOV, BIC, MVN). Each of the
sixteen opcode rows, and the format row, outputs the opcode, the flag, bit 25 as a flag (R111), the two registers, the
second operand, and the value of a rotated immediate, for the operands R132 selects: those of a word that no earlier rule
takes (`WellFormed`, log entry 24). The opcode names are decision D8 (log entry 11), the doubled rotate amount D24 (log
entry 18); that no value is output beside the register form, and that bit 25 is an output of its own, are the model's
choices (DESIGN CHOICE, log entries 9 and 27). -/
def Obligations.DataProcessingOutputs : Prop :=
  (∀ raw : Word, classify raw = some .dataProcessing ↔
    slice raw 26 2 = 0b00#2 ∧ ∀ f : Format, f ≠ .dataProcessing → ¬ region f raw) ∧
  (∀ (op : OpCode) (c : Condition) (k f : Bool) (n d : Reg) (sub : BitVec 12) (s : State),
    (Instr.dataProcessing c k op f n d sub).WellFormed → ∃ (y : DecodedDescriptor) (x : Extracted),
    exec (.dataProcessing c k op f n d sub) s = .next (s.withAnswer (.descriptor y x)) ∧
    exec (.ofOpCode op c k f n d sub) s = .next (s.withAnswer (.descriptor y x)) ∧
    y.toDescriptor = ⟨c, .dataProcessing, encode (.ofOpCode op c k f n d sub), s.addr⟩ ∧
    x.immediateSelect = k ∧
    x.opcode = op ∧ x.loadFlag = f ∧ x.rn = n ∧ x.rd = d ∧
    (k = true → ∃ r : RotateAmount, x.operand2 = .rotatedImmediate (sub.setWidth 8) r ∧ r.amount.toNat = 2 * (sub.toNat / 256) ∧
      x.operand2Value = some (rotatedImmediateValue (sub.setWidth 8) r)) ∧
    (k = false → x.operand2 = .shiftedRegister (sub.setWidth 4) (decodeShift sub) ∧ x.operand2Value = none))

/-- R142 with the words of R133 (no_format): a word with a valid condition and `raw[27:26] == 11` answers
UnknownInstructionFormat with the whole word, condition bits included; there is no descriptor. -/
def Obligations.NoFormatAnswersUnknownFormat : Prop :=
  ∀ (c : Condition) (body : BitVec 26) (s : State), ∃ word : Word,
    exec (.noFormat c body) s = .next (s.withAnswer (.error (.unknownInstructionFormat word))) ∧
    slice word 28 4 = c.code ∧ slice word 26 2 = 0b11#2 ∧ slice word 0 26 = body

/-- R141 (reserved_condition): whatever the body, the answer is ReservedConditionCode(15), and a step over a word whose
condition field is 15 gives it. -/
def Obligations.ReservedConditionAnswersFifteen : Prop :=
  (∀ (body : BitVec 28) (s : State),
    exec (.reservedCondition body) s = .next (s.withAnswer (.error (.reservedConditionCode 15#4)))) ∧
  (∀ s : State, slice s.present.raw 28 4 = 15#4 →
    step s = .next (s.present.withAnswer (.error (.reservedConditionCode 15#4))))

/-- The rows of one word have one meaning. A format row and the row that refines it have the same word and the same
meaning; and every term, a swap or an ill-formed one included, means what its own word decodes to (log entry 24). -/
def Obligations.FormatRowsAgreeWithRefinedRows : Prop :=
  ∀ (i : Instr) (s : State), encode i.refined = encode i ∧ exec i.refined s = exec i s ∧
    exec (decodeWord (encode i)) s = exec i s

/-! ### The machine -/

/-- The block after reset (R155; the shown values are decision D20 and log entries 2 to 4): nothing presented, nothing
evaluated, every output port 0 (the one for bit 25 is the model's choice, log entry 27), the three operand ports without
a value. -/
def Obligations.ResetShowsNoResult : Prop :=
  State.reset.raw = 0#32 ∧ State.reset.addr = 0#32 ∧ State.reset.pending = [] ∧ State.reset.answer = .noResult ∧
  State.reset.ports.ok = false ∧ State.reset.ports.errKind = 0#2 ∧ State.reset.ports.errInfo = 0#32 ∧
  State.reset.ports.dCond = 0#4 ∧ State.reset.ports.dFmt = 0#4 ∧ State.reset.ports.dRaw = 0#32 ∧
  State.reset.ports.dPc = 0#32 ∧ State.reset.ports.rn = 0#4 ∧ State.reset.ports.rd = 0#4 ∧ State.reset.ports.rm = 0#4 ∧
  State.reset.ports.opcode = 0#4 ∧ State.reset.ports.branchOffset = 0#32 ∧ State.reset.ports.loadFlag = false ∧
  State.reset.ports.writeBackFlag = false ∧ State.reset.ports.transferSize = 0#3 ∧ State.reset.ports.psrFlag = false ∧
  State.reset.ports.addOffsetFlag = false ∧ State.reset.ports.preIndexFlag = false ∧
  State.reset.ports.immediateSelect = false ∧ State.reset.ports.listMask = 0#16 ∧ State.reset.ports.listCount = 0#5 ∧
  State.reset.ports.operand2 = none ∧ State.reset.ports.offset = none ∧ State.reset.ports.operand2Value = none

/-- The invariant holds at reset. -/
def Obligations.ResetIsGood : Prop := State.reset.Good

/-- Every step keeps the invariant: whatever was presented, the outputs are a descriptor that `decode` could have built
(its condition not 15, its format the classifier's, its word outside the space without a format, no swap: R19) with the
extractor outputs of its own word, or one of the two errors that occur (R140, R143). -/
def Obligations.EveryStepKeepsGood : Prop :=
  ∀ s t : State, s.Good → step s = .next t → t.Good

/-- A step presents the next pair and runs the instruction its word decodes to: with nothing pending the inputs are held,
otherwise the oldest pair is taken; and a word placed by `withFetchWord` is the one that runs (log entry 4). -/
def Obligations.StepRunsDecodedInstruction : Prop :=
  (∀ (s : State) (i : Instr), decodeWord s.present.raw = i → step s = exec i s.present) ∧
  (∀ s : State, s.pending = [] → s.present = s) ∧
  (∀ (s : State) (p : Stimulus) (rest : List Stimulus), s.pending = p :: rest →
    s.present = { s with raw := p.raw, addr := p.addr, pending := rest }) ∧
  (∀ (s : State) (nbits w : Nat) (i : Instr), decodeTableWord nbits w = some i →
    step (s.withFetchWord nbits w) = exec i (s.withFetchWord nbits w).present)

/-- Every instruction completes from every state, and changes the outputs only: both inputs and the pending pairs are
unchanged, and the answer is a result. -/
def Obligations.EveryInstructionChangesOutputsOnly : Prop :=
  ∀ (i : Instr) (s : State), ∃ a : Answer, a ≠ .noResult ∧ exec i s = .next (s.withAnswer a)

/-- The refinement: a step of the machine, which reads the word as an instruction and runs its meaning, answers exactly
what the operation `decode` of R52 returns on the inputs, with the extractors of R56 beside a descriptor. -/
def Obligations.StepRefinesDecode : Prop :=
  ∀ s : State, step s = .next (s.present.withAnswer (Answer.ofResult (blockDecode s.present.raw s.present.addr)))

/-- Decoding a program (R157, R160): presented as pending pairs, the k-th step answers `decode` of the k-th pair,
whatever came before, errors included (R146); the results are those of decoding each pair on its own. -/
def Obligations.ProgramDecodesPairByPair : Prop :=
  ∀ (s : State) (k : Nat) (p : Stimulus), s.pending[k]? = some p →
    ∃ t : State, Host.Core.run Sys2Proof.core (k + 1) s = .next t ∧ t.raw = p.raw ∧ t.addr = p.addr ∧
      t.pending = s.pending.drop (k + 1) ∧ t.answer = Answer.ofResult (blockDecode p.raw p.addr) ∧
      (decodeProgram s.pending)[k]? = some (blockDecode p.raw p.addr)

/-- R11: every output is a function of the current inputs only: two states that present the same pair give the same answer
and show the same ports after the step, whatever their outputs were before. Nothing is said of the ports that a failed
decode leaves at any value (U7). -/
def Obligations.OutputsDependOnInputsOnly : Prop :=
  ∀ s s' t t' : State, s.present.raw = s'.present.raw → s.present.addr = s'.present.addr →
    step s = .next t → step s' = .next t' →
      t.answer = t'.answer ∧ t.ports.ok = t'.ports.ok ∧ t.ports.errKind = t'.ports.errKind ∧
      t.ports.errInfo = t'.ports.errInfo ∧ (t.ports.ok = true → t.ports = t'.ports)

/-- The ports after a step (R51, R153; the codes are decisions D4 and D5, the list ports D23; log entries 10 and 18): `ok`
exactly when `err_kind` is 0, never kind 3, and every row of the table of R153; beside an `ok` the descriptor ports, and
every extractor port shows its own extractor (R56), the opcode by its code, the transfer size by its bytes, the three
operand ports by the value itself (log entry 9); the port for bit 25 is the model's choice (R111, log entry 27). -/
def Obligations.PortsAfterStep : Prop :=
  ∀ s t : State, step s = .next t →
    (t.ports.ok = true ↔ t.ports.errKind = 0#2) ∧ t.ports.errKind ≠ 3#2 ∧
    (slice t.raw 28 4 = 15#4 → t.ports.ok = false ∧ t.ports.errKind = 1#2 ∧ t.ports.errInfo = 15#32) ∧
    (slice t.raw 28 4 ≠ 15#4 → slice t.raw 26 2 = 0b11#2 →
      t.ports.ok = false ∧ t.ports.errKind = 2#2 ∧ t.ports.errInfo = t.raw) ∧
    (slice t.raw 28 4 ≠ 15#4 → slice t.raw 26 2 ≠ 0b11#2 →
      t.ports.ok = true ∧ t.ports.errKind = 0#2 ∧ t.ports.errInfo = 0#32 ∧ t.ports.dCond = slice t.raw 28 4 ∧
      (∃ f, classify t.raw = some f ∧ t.ports.dFmt = f.tag ∧ t.ports.rn = rn f t.raw ∧ t.ports.rd = rd f t.raw) ∧
      t.ports.rm = rm t.raw ∧ t.ports.opcode = (opcode t.raw).code ∧ t.ports.branchOffset = branchOffset t.raw ∧
      t.ports.loadFlag = loadFlag t.raw ∧ t.ports.writeBackFlag = writeBackFlag t.raw ∧
      t.ports.transferSize.toNat = TransferSize.bytes (transferSize t.raw) ∧ t.ports.psrFlag = psrFlag t.raw ∧
      t.ports.addOffsetFlag = addOffsetFlag t.raw ∧ t.ports.preIndexFlag = preIndexFlag t.raw ∧
      t.ports.immediateSelect = immediateSelect t.raw ∧ t.ports.operand2 = some (operand2 t.raw) ∧
      t.ports.offset = some (offset t.raw) ∧ t.ports.operand2Value = OperandValue.value? (operand2 t.raw) ∧
      t.ports.dFmt ≠ 0#4 ∧ t.ports.dFmt ≠ 9#4 ∧
      t.ports.dRaw = t.raw ∧ t.ports.dPc = t.addr ∧ t.ports.listMask = slice t.raw 0 16 ∧
      t.ports.listCount.toNat = (registerList t.raw).length)

/-! ### Encoding -/

/-- Decode and encode agree: the word of every well-formed instruction, every operand at every value, reads back as it
(for the two format rows, as the row that refines them). -/
def Obligations.DecodeEncode : Prop :=
  ∀ i : Instr, i.WellFormed → decodeWord (encode i) = i.refined

/-- Encode and decode agree: every one of the 2^32 words is the word of exactly the instruction it decodes to, which is
well-formed and fully refined; so no bit of any word is dropped. -/
def Obligations.EncodeDecode : Prop :=
  ∀ w : Word, encode (decodeWord w) = w ∧ (decodeWord w).WellFormed ∧ (decodeWord w).refined = decodeWord w

/-- Words laid out as bytes, lowest address first (the little-endian recommendation D16 of R21), read back with the bytes
after them; and the table's numbering of a 32-bit row is the word itself. -/
def Obligations.BytesDecodeAsTheirWord : Prop :=
  (∀ (w : Word) (rest : List Byte), decodeBytes (wordBytes w ++ rest) = .ok (decodeWord w, rest)) ∧
  (∀ w : Word, decodeTableWord 32 w.toNat = some (decodeWord w)) ∧
  (∀ b0 b1 b2 b3 : Byte, (assembleWord b0 b1 b2 b3).toNat = b0.toNat + 256 * b1.toNat + 65536 * b2.toNat + 16777216 * b3.toNat)

/-- A sanity check of the reading: a word of each family, written out from the pattern strings of R34, decodes to the
instruction it stands for (words of R86). -/
def Obligations.SampleWordsDecode : Prop :=
  decodeWord 0b1110_0001_0010_1111_1111_1111_0001_1110#32 = .branchExchange .always 14#4 ∧
  decodeWord 0b0001_1010_1111_1111_1111_1111_1111_1101#32 = .b .notEqual 0xFFFFFD#24 ∧
  decodeWord 0b1110_0000_0000_0001_0000_0011_1001_0010#32 = .multiply .always false false 1#4 0#4 3#4 2#4 ∧
  decodeWord 0b1110_0111_1000_0000_0100_0001_0000_0010#32 =
    .singleDataTransfer .always true true true false false false 0#4 4#4 0x102#12 ∧
  decodeWord 0b1110_0001_0000_1111_0000_0000_0000_0000#32 = .moveFromPsr .always false 0#4 ∧
  decodeWord 0b1110_0011_1010_0000_0000_0000_0000_0001#32 = .mov .always true false 0#4 0#4 1#12 ∧
  decodeWord 0b1110_1111_0000_0000_0000_0000_0000_0101#32 = .noFormat .always 0x3000005#26 ∧
  decodeWord 0b1111_0000_0000_0000_0000_0000_0000_0000#32 = .reservedCondition 0#28
end

