-- ==== Sys2Proof/Laws/Bits.lean ====
section
/-! SUPPORT. Bits of words: what a slice, a placed field and a placed flag show at each bit, and equality of bit vectors
bit by bit. With these, a statement about masks, fields and encodings turns into one about single bits. -/

namespace Sys2Proof.Laws

/-- Unrolls a bounded quantifier over a literal bound, from the top. -/
theorem forall_lt_succ_iff (n : Nat) (P : Nat → Prop) : (∀ i, i < n + 1 → P i) ↔ (∀ i, i < n → P i) ∧ P n :=
  ⟨fun h => ⟨fun i hi => h i (by omega), h n (by omega)⟩,
   fun ⟨h, hn⟩ i hi => by rcases Nat.lt_succ_iff_lt_or_eq.mp hi with h' | rfl; exacts [h i h', hn]⟩

theorem forall_lt_zero_iff (P : Nat → Prop) : (∀ i, i < 0 → P i) ↔ True := by simp

/-- Two bit vectors are equal when they agree on each of their bits. -/
theorem bv_eq_iff {n : Nat} (x y : BitVec n) : x = y ↔ ∀ i, i < n → x.getLsbD i = y.getLsbD i :=
  ⟨fun h i _ => by rw [h], fun h => BitVec.eq_of_getLsbD_eq h⟩

theorem slice_getLsbD (w : Word) (lo n i : Nat) : (slice w lo n).getLsbD i = (decide (i < n) && w.getLsbD (lo + i)) := by
  simp [slice]

theorem bit_eq (w : Word) (i : Fin 32) : bit w i = w.getLsbD i.val := rfl

theorem place_getLsbD (lo : Nat) {n : Nat} (x : BitVec n) (i : Nat) :
    (place lo x).getLsbD i = (decide (i < 32) && (decide (lo ≤ i) && x.getLsbD (i - lo))) := by
  simp only [place, BitVec.getLsbD_shiftLeft, BitVec.getLsbD_setWidth]
  by_cases h : i < 32
  · by_cases h' : lo ≤ i
    · simp [h, h', Nat.not_lt.mpr h']; omega
    · simp [h', Nat.lt_of_not_le h']
  · simp [h]

theorem placeBit_getLsbD (k : Nat) (b : Bool) (i : Nat) :
    (placeBit k b).getLsbD i = (decide (i < 32) && (decide (i = k) && b)) := by
  simp only [placeBit, BitVec.getLsbD_shiftLeft, BitVec.getLsbD_setWidth, BitVec.getLsbD_ofBool]
  by_cases h : i < 32
  · by_cases h' : i = k
    · subst h'; simp [h]
    · simp [h, h']; omega
  · simp [h]

/-- A word is its four bytes, lowest address first, assembled again (R21). -/
theorem assembleWord_wordBytes (w : Word) :
    assembleWord (slice w 0 8) (slice w 8 8) (slice w 16 8) (slice w 24 8) = w := by
  simp only [bv_eq_iff, forall_lt_succ_iff, forall_lt_zero_iff, assembleWord, BitVec.getLsbD_or, place_getLsbD, slice_getLsbD]
  simp

end Sys2Proof.Laws
end

