-- ==== Sys2Proof/Laws/Classifier.lean ====
section
/-! SUPPORT. Each classifier rule's mask-and-pattern test read bit by bit (R78), the condition table inverted, and one
lemma that gives the reading of a word from its condition and its first matching rule. -/

namespace Sys2Proof.Laws

open Sys2Proof.Machine

variable (raw : Word)

/-- R78, the row of `branchExchange`. -/
theorem hit_branchExchange : Rule.hit ⟨0x0FFFFFF0#32, 0x012FFF10#32, .branchExchange⟩ raw = true ↔ fits .branchExchange raw := by
  simp only [Rule.hit, fits, beq_iff_eq, bv_eq_iff, forall_lt_succ_iff, forall_lt_zero_iff, slice_getLsbD,
    BitVec.getLsbD_and]
  simp

/-- R78, the row of `branchLink`. -/
theorem hit_branchLink : Rule.hit ⟨0x0E000000#32, 0x0A000000#32, .branchLink⟩ raw = true ↔ fits .branchLink raw := by
  simp only [Rule.hit, fits, beq_iff_eq, bv_eq_iff, forall_lt_succ_iff, forall_lt_zero_iff, slice_getLsbD,
    BitVec.getLsbD_and]
  simp

/-- R78, the row of `multiply`. -/
theorem hit_multiply : Rule.hit ⟨0x0FC000F0#32, 0x00000090#32, .multiply⟩ raw = true ↔ fits .multiply raw := by
  simp only [Rule.hit, fits, fitsMultiply, beq_iff_eq, bv_eq_iff, forall_lt_succ_iff, forall_lt_zero_iff, slice_getLsbD,
    BitVec.getLsbD_and]
  simp
  tauto

/-- R78, the row of `multiplyLong`. -/
theorem hit_multiplyLong : Rule.hit ⟨0x0F8000F0#32, 0x00800090#32, .multiplyLong⟩ raw = true ↔ fits .multiplyLong raw := by
  simp only [Rule.hit, fits, fitsMultiplyLong, beq_iff_eq, bv_eq_iff, forall_lt_succ_iff, forall_lt_zero_iff, slice_getLsbD,
    BitVec.getLsbD_and]
  simp
  tauto

/-- R78, the row of `singleDataTransfer`. -/
theorem hit_singleDataTransfer : Rule.hit ⟨0x0C000000#32, 0x04000000#32, .singleDataTransfer⟩ raw = true ↔ fits .singleDataTransfer raw := by
  simp only [Rule.hit, fits, beq_iff_eq, bv_eq_iff, forall_lt_succ_iff, forall_lt_zero_iff, slice_getLsbD,
    BitVec.getLsbD_and]
  simp

/-- R78, the row of `halfwordSignedTransferReg`. -/
theorem hit_halfwordSignedTransferReg : Rule.hit ⟨0x0E400F90#32, 0x00000090#32, .halfwordSignedTransferReg⟩ raw = true ↔ fits .halfwordSignedTransferReg raw := by
  simp only [Rule.hit, fits, fitsHalfwordReg, bit_eq, beq_iff_eq, bv_eq_iff, forall_lt_succ_iff, forall_lt_zero_iff, slice_getLsbD,
    BitVec.getLsbD_and]
  simp
  tauto

/-- R78, the row of `halfwordSignedTransferImm`. -/
theorem hit_halfwordSignedTransferImm : Rule.hit ⟨0x0E400090#32, 0x00400090#32, .halfwordSignedTransferImm⟩ raw = true ↔ fits .halfwordSignedTransferImm raw := by
  simp only [Rule.hit, fits, fitsHalfwordImm, bit_eq, beq_iff_eq, bv_eq_iff, forall_lt_succ_iff, forall_lt_zero_iff, slice_getLsbD,
    BitVec.getLsbD_and]
  simp
  tauto

/-- R78, the row of `blockDataTransfer`. -/
theorem hit_blockDataTransfer : Rule.hit ⟨0x0E000000#32, 0x08000000#32, .blockDataTransfer⟩ raw = true ↔ fits .blockDataTransfer raw := by
  simp only [Rule.hit, fits, beq_iff_eq, bv_eq_iff, forall_lt_succ_iff, forall_lt_zero_iff, slice_getLsbD,
    BitVec.getLsbD_and]
  simp

/-- R78, the row of `singleDataSwap`. -/
theorem hit_singleDataSwap : Rule.hit ⟨0x0FB00FF0#32, 0x01000090#32, .singleDataSwap⟩ raw = true ↔ fits .singleDataSwap raw := by
  simp only [Rule.hit, fits, fitsSwap, beq_iff_eq, bv_eq_iff, forall_lt_succ_iff, forall_lt_zero_iff, slice_getLsbD,
    BitVec.getLsbD_and]
  simp
  tauto

/-- R78, the row of `moveFromPsr`. -/
theorem hit_moveFromPsr : Rule.hit ⟨0x0FBF0FFF#32, 0x010F0000#32, .moveFromPsr⟩ raw = true ↔ fits .moveFromPsr raw := by
  simp only [Rule.hit, fits, fitsMoveFromPsr,
    beq_iff_eq, bv_eq_iff, forall_lt_succ_iff, forall_lt_zero_iff, slice_getLsbD,
    BitVec.getLsbD_and]
  simp
  tauto

/-- R78, the row of `moveToPsrReg`. -/
theorem hit_moveToPsrReg : Rule.hit ⟨0x0FBFFFF0#32, 0x0129F000#32, .moveToPsrReg⟩ raw = true ↔ fits .moveToPsrReg raw := by
  simp only [Rule.hit, fits, fitsMoveToPsrReg, beq_iff_eq, bv_eq_iff, forall_lt_succ_iff, forall_lt_zero_iff, slice_getLsbD,
    BitVec.getLsbD_and]
  simp
  tauto

/-- R78, the row of `moveToPsrFlags`. -/
theorem hit_moveToPsrFlags : Rule.hit ⟨0x0DBFF000#32, 0x0128F000#32, .moveToPsrFlags⟩ raw = true ↔ fits .moveToPsrFlags raw := by
  simp only [Rule.hit, fits, fitsMoveToPsrFlags, beq_iff_eq, bv_eq_iff, forall_lt_succ_iff, forall_lt_zero_iff, slice_getLsbD,
    BitVec.getLsbD_and]
  simp
  tauto

/-- R78, the row of `dataProcessing`. -/
theorem hit_dataProcessing : Rule.hit ⟨0x0C000000#32, 0x00000000#32, .dataProcessing⟩ raw = true ↔ fits .dataProcessing raw := by
  simp only [Rule.hit, fits, beq_iff_eq, bv_eq_iff, forall_lt_succ_iff, forall_lt_zero_iff, slice_getLsbD,
    BitVec.getLsbD_and]
  simp

/-- What the walk over a rule list answers, rule by rule (R76). -/
theorem classifyWith_cons (r : Rule) (rs : List Rule) (f : Format) :
    classifyWith (r :: rs) raw = some f ↔
      (r.hit raw = true ∧ r.format = f) ∨ (¬ r.hit raw = true ∧ classifyWith rs raw = some f) := by
  simp only [classifyWith]
  by_cases h : r.hit raw = true <;> simp [h]

/-- The walk answers nothing exactly when no rule matches (R76). -/
theorem classifyWith_eq_none_iff (rs : List Rule) : classifyWith rs raw = none ↔ ∀ r ∈ rs, ¬ r.hit raw = true := by
  induction rs with
  | nil => simp [classifyWith]
  | cons r rs ih => simp only [classifyWith]; by_cases h : r.hit raw = true <;> simp [h, ih]

/-- A property of all thirteen formats, in the order of the rules. -/
theorem forall_format_iff (P : Format → Prop) : (∀ g, P g) ↔ P .branchExchange ∧ P .branchLink ∧ P .multiply ∧
    P .multiplyLong ∧ P .singleDataTransfer ∧ P .halfwordSignedTransferReg ∧ P .halfwordSignedTransferImm ∧
    P .blockDataTransfer ∧ P .singleDataSwap ∧ P .moveFromPsr ∧ P .moveToPsrReg ∧ P .moveToPsrFlags ∧ P .dataProcessing :=
  ⟨fun h => by simp [h], fun h g => by cases g <;> simp [h]⟩

/-- The first match (R76), read bit by bit: a format is answered when no lower-numbered rule fits and its own does. -/
theorem classify_eq_some_iff (f : Format) :
    classify raw = some f ↔ (∀ g : Format, g.tag.toNat < f.tag.toNat → ¬ fits g raw) ∧ fits f raw := by
  have hnil : classifyWith [] raw = some f ↔ False := by simp [classifyWith]
  rw [forall_format_iff]
  simp only [classify, Config.classifierRules, classifyWith_cons, hnil, hit_branchExchange, hit_branchLink, hit_multiply,
    hit_multiplyLong, hit_singleDataTransfer, hit_halfwordSignedTransferReg, hit_halfwordSignedTransferImm,
    hit_blockDataTransfer, hit_singleDataSwap, hit_moveFromPsr, hit_moveToPsrReg, hit_moveToPsrFlags, hit_dataProcessing]
  cases f <;> simp [Format.tag, and_assoc]

/-- The condition table inverted (R71): a condition's code decodes to it. -/
@[simp] theorem decodeCondition_code (c : Condition) : decodeCondition c.code = .ok c := by cases c <;> rfl

/-- Code 15 is the one code without a condition (R72). -/
@[simp] theorem decodeCondition_reserved : decodeCondition 15#4 = .error (.reservedConditionCode 15#4) := rfl

/-- Every code is either a condition's or 15 (R71, R72). -/
theorem code_cases (code : BitVec 4) : (∃ c : Condition, code = c.code) ∨ code = 15#4 := by
  have h : ∀ code : BitVec 4, (∃ c ∈ conditionTable, code = c.code) ∨ code = 15#4 := by decide
  exact (h code).imp_left fun ⟨c, _, hc⟩ => ⟨c, hc⟩

/-- An operation's code reads back (R103). -/
@[simp] theorem ofCode_code (op : OpCode) : OpCode.ofCode op.code = op := by cases op <;> rfl

/-- A code's operation has that code (R103). -/
@[simp] theorem code_ofCode (code : BitVec 4) : (OpCode.ofCode code).code = code := by revert code; decide

variable {raw}

/-- The reading of a word whose condition and format are known. -/
theorem decodeWord_of {c : Condition} {f : Format} (hc : slice raw 28 4 = c.code) (hf : classify raw = some f) :
    decodeWord raw = decodeFormat f c raw := by
  unfold classify at hf
  simp only [decodeWord, decodeWordWith, hc, decodeCondition_code, hf]

/-- The reading of a word with a condition and no format. -/
theorem decodeWord_noFormat {c : Condition} (hc : slice raw 28 4 = c.code) (hf : classify raw = none) :
    decodeWord raw = .noFormat c (slice raw 0 26) := by
  unfold classify at hf
  simp only [decodeWord, decodeWordWith, hc, decodeCondition_code, hf]

/-- The reading of a word with code 15. -/
theorem decodeWord_reserved (hc : slice raw 28 4 = 15#4) : decodeWord raw = .reservedCondition (slice raw 0 28) := by
  simp only [decodeWord, decodeWordWith, hc, decodeCondition_reserved]

end Sys2Proof.Laws
end

