-- ==== Sys2Proof/Laws/State.lean ====
section
/-! SUPPORT. One lemma per field per update of State, and what each shared operation does, said once. -/

namespace Sys2Proof.Laws

open Sys2Proof.Machine

variable (s : State) (a : Answer)

@[simp] theorem withAnswer_raw : (s.withAnswer a).raw = s.raw := rfl
@[simp] theorem withAnswer_addr : (s.withAnswer a).addr = s.addr := rfl
@[simp] theorem withAnswer_pending : (s.withAnswer a).pending = s.pending := rfl
@[simp] theorem withAnswer_answer : (s.withAnswer a).answer = a := rfl
@[simp] theorem withAnswer_withAnswer (b : Answer) : (s.withAnswer a).withAnswer b = s.withAnswer b := rfl

@[simp] theorem decode_raw (w : Word) : (s.decode w).raw = s.raw := rfl
@[simp] theorem decode_addr (w : Word) : (s.decode w).addr = s.addr := rfl
@[simp] theorem decode_pending (w : Word) : (s.decode w).pending = s.pending := rfl
@[simp] theorem decode_answer (w : Word) : (s.decode w).answer = Answer.ofResult (blockDecode w s.addr) := rfl

@[simp] theorem raise_raw (e : DecodeError) : (s.raise e).raw = s.raw := rfl
@[simp] theorem raise_addr (e : DecodeError) : (s.raise e).addr = s.addr := rfl
@[simp] theorem raise_pending (e : DecodeError) : (s.raise e).pending = s.pending := rfl
@[simp] theorem raise_answer (e : DecodeError) : (s.raise e).answer = .error e := rfl

@[simp] theorem reset_raw : State.reset.raw = 0#32 := rfl
@[simp] theorem reset_addr : State.reset.addr = 0#32 := rfl
@[simp] theorem reset_pending : State.reset.pending = [] := rfl
@[simp] theorem reset_answer : State.reset.answer = .noResult := rfl

/-- With nothing pending the inputs are held. -/
theorem present_of_nil (h : s.pending = []) : s.present = s := by
  unfold State.present; rw [h]

/-- With a pair pending, it is what the inputs show. -/
theorem present_of_cons {p : Stimulus} {rest : List Stimulus} (h : s.pending = p :: rest) :
    s.present = { s with raw := p.raw, addr := p.addr, pending := rest } := by
  unfold State.present; rw [h]

@[simp] theorem present_answer : s.present.answer = s.answer := by
  unfold State.present; split <;> rfl

/-- Presenting drops the oldest pair. -/
@[simp] theorem present_pending : s.present.pending = s.pending.tail := by
  unfold State.present; split <;> simp_all

theorem withFetchWord_of_nil (h : s.pending = []) (nbits w : Nat) :
    s.withFetchWord nbits w = { s with raw := tableWord nbits w } := by
  unfold State.withFetchWord; rw [h]

/-- The word the next step reads is the word placed. -/
@[simp] theorem withFetchWord_present_raw (nbits w : Nat) : (s.withFetchWord nbits w).present.raw = tableWord nbits w := by
  cases h : s.pending with
  | nil => simp [State.withFetchWord, State.present, h]
  | cons p rest => simp [State.withFetchWord, State.present, h]

/-- Placing a word leaves the outputs alone. -/
@[simp] theorem withFetchWord_answer (nbits w : Nat) : (s.withFetchWord nbits w).answer = s.answer := by
  unfold State.withFetchWord; split <;> rfl

/-- A run whose first step answers a next state goes on from it. -/
theorem run_succ_of_next {M : Host.Core} {a b : M.State} (h : M.step a = .next b) (k : Nat) : M.run (k + 1) a = M.run k b := by
  simp [Host.Core.run, h]

/-- The answer of a decode result is good for the ports: an `Ok` shows its own extractors. -/
@[simp] theorem ofResult_ok (d : DecodedDescriptor) : Answer.ofResult (.ok d) = .descriptor d (extractAll d.fmt d.raw) := rfl
@[simp] theorem ofResult_err (e : DecodeError) : Answer.ofResult (.err e) = .error e := rfl

end Sys2Proof.Laws
end

