-- ==== Sys2Proof/Laws/Decode.lean ====
section
/-! SUPPORT. What `decode` returns, said once: at the record, at the descriptor that carries its proof (R54), at the state
it leaves; and that every meaning answers what `decode` returns on the instruction's own word. -/

namespace Sys2Proof.Laws

open Sys2Proof.Machine

/-- Two descriptors with the same record are the same descriptor. -/
theorem decodedDescriptor_eq {d e : DecodedDescriptor} (h : d.toDescriptor = e.toDescriptor) : d = e := by
  cases d; cases e; cases h; rfl

/-- A descriptor is returned exactly when its record is what the pseudocode gives. -/
theorem blockDecode_eq_ok_iff {raw addr : Word} {d : DecodedDescriptor} :
    blockDecode raw addr = .ok d ↔ decodeRecord raw addr = .ok d.toDescriptor := by
  unfold blockDecode
  split
  next e h => exact ⟨fun k => (nomatch k), fun k => nomatch h.symm.trans k⟩
  next d' h =>
    refine ⟨fun k => DecodeResult.ok.inj k ▸ h, fun k => congrArg _ (decodedDescriptor_eq ?_)⟩
    exact Except.ok.inj (h.symm.trans k)

/-- An error is returned exactly when the pseudocode gives it. -/
theorem blockDecode_eq_err_iff {raw addr : Word} {e : DecodeError} :
    blockDecode raw addr = .err e ↔ decodeRecord raw addr = .error e := by
  unfold blockDecode
  split
  next e' h =>
    exact ⟨fun k => DecodeResult.err.inj k ▸ h, fun k => congrArg _ (Except.error.inj (h.symm.trans k))⟩
  next d h => exact ⟨fun k => (nomatch k), fun k => nomatch h.symm.trans k⟩

variable {raw : Word}

/-- The record of a word whose condition and format are known (R52). -/
theorem decodeRecord_of {c : Condition} {f : Format} (hc : slice raw 28 4 = c.code) (hf : classify raw = some f) (addr : Word) :
    decodeRecord raw addr = .ok ⟨c, f, raw, addr⟩ := by
  unfold classify at hf
  simp only [decodeRecord, decodeRecordWith, hc, decodeCondition_code, hf]

/-- The error of a word with a condition and no format (R142). -/
theorem decodeRecord_noFormat {c : Condition} (hc : slice raw 28 4 = c.code) (hf : classify raw = none) (addr : Word) :
    decodeRecord raw addr = .error (.unknownInstructionFormat raw) := by
  unfold classify at hf
  simp only [decodeRecord, decodeRecordWith, hc, decodeCondition_code, hf]

/-- The error of a word with code 15 (R141). -/
theorem decodeRecord_reserved (hc : slice raw 28 4 = 15#4) (addr : Word) :
    decodeRecord raw addr = .error (.reservedConditionCode 15#4) := by
  simp only [decodeRecord, decodeRecordWith, hc, decodeCondition_reserved]

/-- What a state becomes on a word whose condition and format are known: a descriptor of that record, with the extractors
of that word and format. -/
theorem decode_of {c : Condition} {f : Format} (hc : slice raw 28 4 = c.code) (hf : classify raw = some f) (s : State) :
    ∃ d : DecodedDescriptor, s.decode raw = s.withAnswer (.descriptor d (extractAll f raw)) ∧
      d.toDescriptor = ⟨c, f, raw, s.addr⟩ :=
  ⟨⟨⟨c, f, raw, s.addr⟩, decodeRecord_of hc hf s.addr⟩,
    congrArg (fun r => s.withAnswer (.ofResult r))
      (blockDecode_eq_ok_iff (d := ⟨⟨c, f, raw, s.addr⟩, _⟩).mpr (decodeRecord_of hc hf s.addr)), rfl⟩

end Sys2Proof.Laws
end

