-- ==== Sys2Proof/Laws/Encode.lean ====
section
/-! SUPPORT. The encoder: the condition field of every word it makes, the fields of the shared shapes, and the format the
classifier gives each word of a well-formed instruction. -/

namespace Sys2Proof.Laws

open Sys2Proof.Machine

/-- The condition field of a data-processing word. -/
theorem cond_encodeDataProcessing (c : Condition) (k : Bool) (op : OpCode) (f : Bool) (rn rd : Reg) (sub : BitVec 12) :
    slice (encodeDataProcessing c k op f rn rd sub) 28 4 = c.code := by
  simp only [encodeDataProcessing, slice_getLsbD, bv_eq_iff, forall_lt_succ_iff, forall_lt_zero_iff, BitVec.getLsbD_or, place_getLsbD, placeBit_getLsbD]
  simp

/-- The condition field of a branch word. -/
theorem cond_encodeBranch (c : Condition) (l : Bool) (o : BitVec 24) : slice (encodeBranch c l o) 28 4 = c.code := by
  simp only [encodeBranch, slice_getLsbD, bv_eq_iff, forall_lt_succ_iff, forall_lt_zero_iff, BitVec.getLsbD_or, place_getLsbD, placeBit_getLsbD]
  simp

/-- The classifier's format of a branch word. -/
theorem classify_encodeBranch (c : Condition) (l : Bool) (o : BitVec 24) : classify (encodeBranch c l o) = some .branchLink := by
  simp only [classify, Config.classifierRules, classifyWith, encodeBranch, Rule.hit, beq_iff_eq, bv_eq_iff, forall_lt_succ_iff, forall_lt_zero_iff, BitVec.getLsbD_and,
    BitVec.getLsbD_or, place_getLsbD, placeBit_getLsbD]
  simp

/-- The fields of a branch word. -/
theorem fields_encodeBranch (c : Condition) (l : Bool) (o : BitVec 24) :
    bit (encodeBranch c l o) 24 = l ∧ slice (encodeBranch c l o) 0 24 = o := by
  simp only [encodeBranch, bit_eq, slice_getLsbD, bv_eq_iff, forall_lt_succ_iff, forall_lt_zero_iff, BitVec.getLsbD_or, place_getLsbD, placeBit_getLsbD]
  simp

/-- The fields of a data-processing word. -/
theorem fields_encodeDataProcessing (c : Condition) (k : Bool) (op : OpCode) (f : Bool) (rn rd : Reg) (sub : BitVec 12) :
    bit (encodeDataProcessing c k op f rn rd sub) 25 = k ∧ slice (encodeDataProcessing c k op f rn rd sub) 21 4 = op.code ∧
      bit (encodeDataProcessing c k op f rn rd sub) 20 = f ∧ slice (encodeDataProcessing c k op f rn rd sub) 16 4 = rn ∧
      slice (encodeDataProcessing c k op f rn rd sub) 12 4 = rd ∧ slice (encodeDataProcessing c k op f rn rd sub) 0 12 = sub := by
  simp only [encodeDataProcessing, bit_eq, slice_getLsbD, bv_eq_iff, forall_lt_succ_iff, forall_lt_zero_iff, BitVec.getLsbD_or, place_getLsbD, placeBit_getLsbD]
  simp

section DataProcessing

variable (c : Condition) (k : Bool) (op : OpCode) (f : Bool) (rn rd : Reg) (sub : BitVec 12)

/-- When a data-processing word has the shape of `branchExchange` (R81 row 1), said on its operands. -/
theorem dp_hit_branchExchange :
    Rule.hit ⟨0x0FFFFFF0#32, 0x012FFF10#32, .branchExchange⟩ (encodeDataProcessing c k op f rn rd sub) =
      (!k && op == .teq && !f && rn == 15#4 && rd == 15#4 && sub.extractLsb' 4 8 == 0xF1#8) := by
  rw [Bool.eq_iff_iff]
  simp only [Rule.hit, encodeDataProcessing, Bool.and_eq_true, beq_iff_eq, BitVec.getLsbD_extractLsb', bv_eq_iff, forall_lt_succ_iff, forall_lt_zero_iff, BitVec.getLsbD_and,
    BitVec.getLsbD_or, place_getLsbD, placeBit_getLsbD]
  simp
  cases op <;> simp [OpCode.code]
  tauto

/-- When a data-processing word has the shape of `multiply` (R81 row 3), said on its operands. -/
theorem dp_hit_multiply :
    Rule.hit ⟨0x0FC000F0#32, 0x00000090#32, .multiply⟩ (encodeDataProcessing c k op f rn rd sub) =
      (!k && (op == .and || op == .eor) && sub.extractLsb' 4 4 == 0b1001#4) := by
  rw [Bool.eq_iff_iff]
  simp only [Rule.hit, encodeDataProcessing, Bool.and_eq_true, beq_iff_eq, BitVec.getLsbD_extractLsb', bv_eq_iff, forall_lt_succ_iff, forall_lt_zero_iff, BitVec.getLsbD_and,
    BitVec.getLsbD_or, place_getLsbD, placeBit_getLsbD]
  simp
  cases op <;> simp [OpCode.code] <;> tauto

/-- When a data-processing word has the shape of `multiplyLong` (R81 row 4), said on its operands. -/
theorem dp_hit_multiplyLong :
    Rule.hit ⟨0x0F8000F0#32, 0x00800090#32, .multiplyLong⟩ (encodeDataProcessing c k op f rn rd sub) =
      (!k && (op == .add || op == .adc || op == .sbc || op == .rsc) && sub.extractLsb' 4 4 == 0b1001#4) := by
  rw [Bool.eq_iff_iff]
  simp only [Rule.hit, encodeDataProcessing, Bool.and_eq_true, beq_iff_eq, BitVec.getLsbD_extractLsb', bv_eq_iff, forall_lt_succ_iff, forall_lt_zero_iff, BitVec.getLsbD_and,
    BitVec.getLsbD_or, place_getLsbD, placeBit_getLsbD]
  simp
  cases op <;> simp [OpCode.code] <;> tauto

/-- When a data-processing word has the shape of `halfwordSignedTransferReg` (R81 row 6), said on its operands. -/
theorem dp_hit_halfwordSignedTransferReg :
    Rule.hit ⟨0x0E400F90#32, 0x00000090#32, .halfwordSignedTransferReg⟩ (encodeDataProcessing c k op f rn rd sub) =
      (!k && (op == .and || op == .eor || op == .add || op == .adc || op == .tst || op == .teq || op == .orr || op == .mov) &&
        sub.extractLsb' 8 4 == 0b0000#4 && sub.getLsbD 7 && sub.getLsbD 4) := by
  rw [Bool.eq_iff_iff]
  simp only [Rule.hit, encodeDataProcessing, Bool.and_eq_true, beq_iff_eq, BitVec.getLsbD_extractLsb', bv_eq_iff, forall_lt_succ_iff, forall_lt_zero_iff, BitVec.getLsbD_and,
    BitVec.getLsbD_or, place_getLsbD, placeBit_getLsbD]
  simp
  cases op <;> simp [OpCode.code] <;> tauto

/-- When a data-processing word has the shape of `halfwordSignedTransferImm` (R81 row 7), said on its operands. -/
theorem dp_hit_halfwordSignedTransferImm :
    Rule.hit ⟨0x0E400090#32, 0x00400090#32, .halfwordSignedTransferImm⟩ (encodeDataProcessing c k op f rn rd sub) =
      (!k && (op == .sub || op == .rsb || op == .sbc || op == .rsc || op == .cmp || op == .cmn || op == .bic || op == .mvn) &&
        sub.getLsbD 7 && sub.getLsbD 4) := by
  rw [Bool.eq_iff_iff]
  simp only [Rule.hit, encodeDataProcessing, Bool.and_eq_true, beq_iff_eq, bv_eq_iff, forall_lt_succ_iff, forall_lt_zero_iff, BitVec.getLsbD_and,
    BitVec.getLsbD_or, place_getLsbD, placeBit_getLsbD]
  simp
  cases op <;> simp [OpCode.code] <;> tauto

/-- When a data-processing word has the shape of `moveFromPsr` (R81 row 10), said on its operands. -/
theorem dp_hit_moveFromPsr :
    Rule.hit ⟨0x0FBF0FFF#32, 0x010F0000#32, .moveFromPsr⟩ (encodeDataProcessing c k op f rn rd sub) =
      (!k && (op == .tst || op == .cmp) && !f && rn == 15#4 && sub == 0#12) := by
  rw [Bool.eq_iff_iff]
  simp only [Rule.hit, encodeDataProcessing, Bool.and_eq_true, beq_iff_eq, bv_eq_iff, forall_lt_succ_iff, forall_lt_zero_iff, BitVec.getLsbD_and,
    BitVec.getLsbD_or, place_getLsbD, placeBit_getLsbD]
  simp
  cases op <;> simp [OpCode.code] <;> tauto

/-- When a data-processing word has the shape of `moveToPsrReg` (R81 row 11), said on its operands. -/
theorem dp_hit_moveToPsrReg :
    Rule.hit ⟨0x0FBFFFF0#32, 0x0129F000#32, .moveToPsrReg⟩ (encodeDataProcessing c k op f rn rd sub) =
      (!k && (op == .teq || op == .cmn) && !f && rn == 9#4 && rd == 15#4 && sub.extractLsb' 4 8 == 0x00#8) := by
  rw [Bool.eq_iff_iff]
  simp only [Rule.hit, encodeDataProcessing, Bool.and_eq_true, beq_iff_eq, BitVec.getLsbD_extractLsb', bv_eq_iff, forall_lt_succ_iff, forall_lt_zero_iff, BitVec.getLsbD_and,
    BitVec.getLsbD_or, place_getLsbD, placeBit_getLsbD]
  simp
  cases op <;> simp [OpCode.code] <;> tauto

/-- When a data-processing word has the shape of `moveToPsrFlags` (R81 row 12), said on its operands. -/
theorem dp_hit_moveToPsrFlags :
    Rule.hit ⟨0x0DBFF000#32, 0x0128F000#32, .moveToPsrFlags⟩ (encodeDataProcessing c k op f rn rd sub) =
      ((op == .teq || op == .cmn) && !f && rn == 8#4 && rd == 15#4) := by
  rw [Bool.eq_iff_iff]
  simp only [Rule.hit, encodeDataProcessing, Bool.and_eq_true, beq_iff_eq, bv_eq_iff, forall_lt_succ_iff, forall_lt_zero_iff, BitVec.getLsbD_and,
    BitVec.getLsbD_or, place_getLsbD, placeBit_getLsbD]
  simp
  cases op <;> simp [OpCode.code] <;> tauto

/-- A data-processing word has the shape of no rule whose `raw[27:26]` is not 00; a swap's shape is a halfword's (R82). -/
theorem dp_miss :
    Rule.hit ⟨0x0E000000#32, 0x0A000000#32, .branchLink⟩ (encodeDataProcessing c k op f rn rd sub) = false ∧
      Rule.hit ⟨0x0C000000#32, 0x04000000#32, .singleDataTransfer⟩ (encodeDataProcessing c k op f rn rd sub) = false ∧
      Rule.hit ⟨0x0E000000#32, 0x08000000#32, .blockDataTransfer⟩ (encodeDataProcessing c k op f rn rd sub) = false ∧
      Rule.hit ⟨0x0C000000#32, 0x00000000#32, .dataProcessing⟩ (encodeDataProcessing c k op f rn rd sub) = true := by
  simp only [← Bool.not_eq_true, Rule.hit, encodeDataProcessing, beq_iff_eq, bv_eq_iff, forall_lt_succ_iff, forall_lt_zero_iff, BitVec.getLsbD_and,
    BitVec.getLsbD_or, place_getLsbD, placeBit_getLsbD]
  simp

/-- A swap's shape is a halfword transfer's (R82). -/
theorem swap_hit_halfword (w : Word) (h : Rule.hit ⟨0x0FB00FF0#32, 0x01000090#32, .singleDataSwap⟩ w = true) :
    Rule.hit ⟨0x0E400F90#32, 0x00000090#32, .halfwordSignedTransferReg⟩ w = true ∨
      Rule.hit ⟨0x0E400090#32, 0x00400090#32, .halfwordSignedTransferImm⟩ w = true := by
  simp only [Rule.hit, beq_iff_eq, bv_eq_iff, forall_lt_succ_iff, forall_lt_zero_iff, BitVec.getLsbD_and] at h ⊢
  simp at h ⊢
  cases h22 : w[22] <;> simp [h]

/-- A well-formed data-processing word is no other format's: rule 13 is its first match (R81 row 13). -/
theorem classify_encodeDataProcessing (h : WellFormed.dataProcessing k op f rn rd sub = true) :
    classify (encodeDataProcessing c k op f rn rd sub) = some .dataProcessing := by
  simp only [WellFormed.dataProcessing, Bool.and_eq_true, Bool.not_eq_true'] at h
  obtain ⟨⟨⟨⟨⟨⟨⟨h1, h3⟩, h4⟩, h6⟩, h7⟩, h10⟩, h11⟩, h12⟩ := h
  rw [← dp_hit_branchExchange c] at h1
  rw [← dp_hit_multiply c k op f rn rd] at h3
  rw [← dp_hit_multiplyLong c k op f rn rd] at h4
  rw [← dp_hit_halfwordSignedTransferReg c k op f rn rd] at h6
  rw [← dp_hit_halfwordSignedTransferImm c k op f rn rd] at h7
  rw [← dp_hit_moveFromPsr c k op f rn rd] at h10
  rw [← dp_hit_moveToPsrReg c] at h11
  rw [← dp_hit_moveToPsrFlags c k op f rn rd sub] at h12
  obtain ⟨h2, h5, h8, h13⟩ := dp_miss c k op f rn rd sub
  have h9 : Rule.hit ⟨0x0FB00FF0#32, 0x01000090#32, .singleDataSwap⟩ (encodeDataProcessing c k op f rn rd sub) = false := by
    rw [← Bool.not_eq_true]
    intro h9
    rcases swap_hit_halfword _ h9 with h | h <;> simp_all
  simp [classify, Config.classifierRules, classifyWith, h1, h2, h3, h4, h5, h6, h7, h8, h9, h10, h11, h12, h13]

end DataProcessing

/-- The condition field and the first matching rule of a `branchExchange` word (R81). -/
theorem encode_branchExchange (c : Condition) (rn : Reg) :
    slice (encode (.branchExchange c rn)) 28 4 = c.code ∧ classify (encode (.branchExchange c rn)) = some .branchExchange := by
  simp only [classify, Config.classifierRules, classifyWith, encode, slice_getLsbD, Rule.hit, beq_iff_eq, bv_eq_iff, forall_lt_succ_iff, forall_lt_zero_iff, BitVec.getLsbD_and,
    BitVec.getLsbD_or, place_getLsbD]
  simp

/-- The condition field and the first matching rule of a `multiply` word (R81). -/
theorem encode_multiply (c : Condition) (w f : Bool) (rd rn rs rm : Reg) :
    slice (encode (.multiply c w f rd rn rs rm)) 28 4 = c.code ∧ classify (encode (.multiply c w f rd rn rs rm)) = some .multiply := by
  simp only [classify, Config.classifierRules, classifyWith, encode, slice_getLsbD, Rule.hit, beq_iff_eq, bv_eq_iff, forall_lt_succ_iff, forall_lt_zero_iff, BitVec.getLsbD_and,
    BitVec.getLsbD_or, place_getLsbD, placeBit_getLsbD]
  simp

/-- The condition field and the first matching rule of a `multiplyLong` word (R81). -/
theorem encode_multiplyLong (c : Condition) (u w f : Bool) (rdHi rd rn rm : Reg) :
    slice (encode (.multiplyLong c u w f rdHi rd rn rm)) 28 4 = c.code ∧ classify (encode (.multiplyLong c u w f rdHi rd rn rm)) = some .multiplyLong := by
  simp only [classify, Config.classifierRules, classifyWith, encode, slice_getLsbD, Rule.hit, beq_iff_eq, bv_eq_iff, forall_lt_succ_iff, forall_lt_zero_iff, BitVec.getLsbD_and,
    BitVec.getLsbD_or, place_getLsbD, placeBit_getLsbD]
  simp

/-- The condition field and the first matching rule of a `singleDataTransfer` word (R81). -/
theorem encode_singleDataTransfer (c : Condition) (k p u z w l : Bool) (rn rd : Reg) (sub : BitVec 12) :
    slice (encode (.singleDataTransfer c k p u z w l rn rd sub)) 28 4 = c.code ∧ classify (encode (.singleDataTransfer c k p u z w l rn rd sub)) = some .singleDataTransfer := by
  simp only [classify, Config.classifierRules, classifyWith, encode, slice_getLsbD, Rule.hit, beq_iff_eq, bv_eq_iff, forall_lt_succ_iff, forall_lt_zero_iff, BitVec.getLsbD_and,
    BitVec.getLsbD_or, place_getLsbD, placeBit_getLsbD]
  simp

/-- The condition field and the first matching rule of a `halfwordSignedTransferReg` word (R81). -/
theorem encode_halfwordSignedTransferReg (c : Condition) (p u w l : Bool) (rn rd : Reg) (sh : BitVec 2) (rm : Reg) (h : WellFormed.halfwordReg p sh = true) :
    slice (encode (.halfwordSignedTransferReg c p u w l rn rd sh rm)) 28 4 = c.code ∧ classify (encode (.halfwordSignedTransferReg c p u w l rn rd sh rm)) = some .halfwordSignedTransferReg := by
  simp only [classify, Config.classifierRules, classifyWith, encode, slice_getLsbD, Rule.hit, beq_iff_eq, bv_eq_iff, forall_lt_succ_iff, forall_lt_zero_iff, BitVec.getLsbD_and,
    BitVec.getLsbD_or, place_getLsbD, placeBit_getLsbD]
  simp only [WellFormed.halfwordReg, Bool.not_eq_true', Bool.and_eq_false_iff, Bool.not_eq_false',
    beq_eq_false_iff_ne, ne_eq, bv_eq_iff, forall_lt_succ_iff, forall_lt_zero_iff] at h
  simp at h ⊢
  grind

/-- The condition field and the first matching rule of a `halfwordSignedTransferImm` word (R81). -/
theorem encode_halfwordSignedTransferImm (c : Condition) (p u w l : Bool) (rn rd : Reg) (hi : BitVec 4) (sh : BitVec 2) (lo : BitVec 4) (h : WellFormed.halfwordImm p u sh = true) :
    slice (encode (.halfwordSignedTransferImm c p u w l rn rd hi sh lo)) 28 4 = c.code ∧ classify (encode (.halfwordSignedTransferImm c p u w l rn rd hi sh lo)) = some .halfwordSignedTransferImm := by
  simp only [classify, Config.classifierRules, classifyWith, encode, slice_getLsbD, Rule.hit, beq_iff_eq, bv_eq_iff, forall_lt_succ_iff, forall_lt_zero_iff, BitVec.getLsbD_and,
    BitVec.getLsbD_or, place_getLsbD, placeBit_getLsbD]
  simp only [WellFormed.halfwordImm, Bool.not_eq_true', Bool.and_eq_false_iff, Bool.not_eq_false',
    beq_eq_false_iff_ne, ne_eq, bv_eq_iff, forall_lt_succ_iff, forall_lt_zero_iff] at h
  simp at h ⊢
  grind

/-- The condition field and the first matching rule of a `blockDataTransfer` word (R81). -/
theorem encode_blockDataTransfer (c : Condition) (p u z w l : Bool) (rn : Reg) (list : BitVec 16) :
    slice (encode (.blockDataTransfer c p u z w l rn list)) 28 4 = c.code ∧ classify (encode (.blockDataTransfer c p u z w l rn list)) = some .blockDataTransfer := by
  simp only [classify, Config.classifierRules, classifyWith, encode, slice_getLsbD, Rule.hit, beq_iff_eq, bv_eq_iff, forall_lt_succ_iff, forall_lt_zero_iff, BitVec.getLsbD_and,
    BitVec.getLsbD_or, place_getLsbD, placeBit_getLsbD]
  simp

/-- The condition field and the first matching rule of a `moveFromPsr` word (R81). -/
theorem encode_moveFromPsr (c : Condition) (z : Bool) (rd : Reg) :
    slice (encode (.moveFromPsr c z rd)) 28 4 = c.code ∧ classify (encode (.moveFromPsr c z rd)) = some .moveFromPsr := by
  simp only [classify, Config.classifierRules, classifyWith, encode, slice_getLsbD, Rule.hit, beq_iff_eq, bv_eq_iff, forall_lt_succ_iff, forall_lt_zero_iff, BitVec.getLsbD_and,
    BitVec.getLsbD_or, place_getLsbD, placeBit_getLsbD]
  simp

/-- The condition field and the first matching rule of a `moveToPsrReg` word (R81). -/
theorem encode_moveToPsrReg (c : Condition) (z : Bool) (rm : Reg) :
    slice (encode (.moveToPsrReg c z rm)) 28 4 = c.code ∧ classify (encode (.moveToPsrReg c z rm)) = some .moveToPsrReg := by
  simp only [classify, Config.classifierRules, classifyWith, encode, slice_getLsbD, Rule.hit, beq_iff_eq, bv_eq_iff, forall_lt_succ_iff, forall_lt_zero_iff, BitVec.getLsbD_and,
    BitVec.getLsbD_or, place_getLsbD, placeBit_getLsbD]
  simp

/-- The condition field and the first matching rule of a `moveToPsrFlags` word (R81). -/
theorem encode_moveToPsrFlags (c : Condition) (k z : Bool) (sub : BitVec 12) (h : WellFormed.psrFlags k z sub = true) :
    slice (encode (.moveToPsrFlags c k z sub)) 28 4 = c.code ∧ classify (encode (.moveToPsrFlags c k z sub)) = some .moveToPsrFlags := by
  simp only [classify, Config.classifierRules, classifyWith, encode, slice_getLsbD, Rule.hit, beq_iff_eq, bv_eq_iff, forall_lt_succ_iff, forall_lt_zero_iff, BitVec.getLsbD_and,
    BitVec.getLsbD_or, place_getLsbD, placeBit_getLsbD]
  simp only [WellFormed.psrFlags, Bool.not_eq_true', Bool.and_eq_false_iff, Bool.not_eq_false',
    Bool.or_eq_false_iff, beq_eq_false_iff_ne, ne_eq, bv_eq_iff, forall_lt_succ_iff, forall_lt_zero_iff, BitVec.getLsbD_extractLsb'] at h
  simp at h ⊢
  grind

/-- The condition field of a word without a format, and that no rule matches it (R84). -/
theorem encode_noFormat (c : Condition) (body : BitVec 26) :
    slice (encode (.noFormat c body)) 28 4 = c.code ∧ classify (encode (.noFormat c body)) = none := by
  simp only [classify, Config.classifierRules, classifyWith, encode, slice_getLsbD, Rule.hit, beq_iff_eq, bv_eq_iff, forall_lt_succ_iff, forall_lt_zero_iff, BitVec.getLsbD_and,
    BitVec.getLsbD_or, place_getLsbD]
  simp

/-- The condition field of a reserved-condition word is 15 (R141). -/
theorem encode_reservedCondition (body : BitVec 28) : slice (encode (.reservedCondition body)) 28 4 = 15#4 := by
  simp only [encode, slice_getLsbD, bv_eq_iff, forall_lt_succ_iff, forall_lt_zero_iff, BitVec.getLsbD_or, place_getLsbD]
  simp

end Sys2Proof.Laws
end

