-- ==== Sys2Proof/Laws/Exec.lean ====
section
/-! SUPPORT. What `exec` can do, said once for every row. -/

namespace Sys2Proof.Laws

open Sys2Proof.Machine

/-- Every meaning answers what `decode` returns on the instruction's own word, and completes. -/
theorem exec_eq_decode (i : Instr) (s : State) : exec i s = .next (s.decode (encode i)) := by
  cases i
  case noFormat c body =>
    have h := encode_noFormat c body
    rw [State.decode, blockDecode_eq_err_iff.mpr (decodeRecord_noFormat h.1 h.2 s.addr)]; rfl
  case reservedCondition body =>
    rw [State.decode, blockDecode_eq_err_iff.mpr (decodeRecord_reserved (encode_reservedCondition body) s.addr)]; rfl
  all_goals rfl

/-- The meaning of an instruction whose word has a known condition and format. -/
theorem exec_of {i : Instr} {c : Condition} {f : Format}
    (h : slice (encode i) 28 4 = c.code ∧ classify (encode i) = some f) (s : State) :
    ∃ d : DecodedDescriptor, exec i s = .next (s.withAnswer (.descriptor d (extractAll f (encode i)))) ∧
      d.toDescriptor = ⟨c, f, encode i, s.addr⟩ := by
  obtain ⟨d, hd, hr⟩ := decode_of h.1 h.2 s
  exact ⟨d, by rw [exec_eq_decode, hd], hr⟩

end Sys2Proof.Laws
end

