-- ==== Sys2Proof/Laws/Operands.lean ====
section
/-! SUPPORT. Rotate amounts: equality, the recorded value, and that every amount comes from a 4-bit field. -/

namespace Sys2Proof.Laws

open Sys2Proof.Machine

/-- Two rotate amounts with the same number are the same. -/
theorem rotateAmount_eq {r q : RotateAmount} (h : r.amount = q.amount) : r = q := by
  cases r; cases q; cases h; rfl

/-- The recorded amount is twice the field (R94, D24). -/
@[simp] theorem rotateAmount_toNat (field : BitVec 4) : (rotateAmount field).amount.toNat = 2 * field.toNat := by
  have := field.isLt
  simp only [rotateAmount, BitVec.toNat_shiftLeft, BitVec.toNat_setWidth, Nat.shiftLeft_eq]; omega

/-- Different fields give different amounts. -/
theorem rotateAmount_inj {a b : BitVec 4} : rotateAmount a = rotateAmount b ↔ a = b := by
  refine ⟨fun h => BitVec.eq_of_toNat_eq ?_, congrArg rotateAmount⟩
  have := congrArg (fun r => r.amount.toNat) h
  simp only [rotateAmount_toNat] at this; omega

/-- The field of a rotate amount: half of it (R12, an even number 0 to 30). -/
theorem rotateAmount_surjective (r : RotateAmount) : rotateAmount (BitVec.ofNat 4 (r.amount.toNat / 2)) = r := by
  have := r.even
  have := r.amount.isLt
  refine rotateAmount_eq (BitVec.eq_of_toNat_eq ?_)
  rw [rotateAmount_toNat, BitVec.toNat_ofNat]; omega

end Sys2Proof.Laws
end

