-- ==== Sys2Proof/Laws/PerInstr.lean ====
section
/-! SUPPORT. The per-instruction family RoundTrip: the word of a well-formed instruction reads back as it, or, for the two
format rows, as the row that refines them. -/

namespace Sys2Proof.Laws.RoundTrip

open Sys2Proof.Machine

/-- No bit of the encoding is dropped. -/
def Statement (i : Instr) : Prop := i.WellFormed → decodeWord (encode i) = i.refined

/-- The shared half of the seventeen data-processing rows. -/
theorem ofDataProcessing (c : Condition) (k : Bool) (op : OpCode) (f : Bool) (rn rd : Reg) (sub : BitVec 12)
    (h : WellFormed.dataProcessing k op f rn rd sub = true) :
    decodeWord (encodeDataProcessing c k op f rn rd sub) = .ofOpCode op c k f rn rd sub := by
  obtain ⟨h1, h2, h3, h4, h5, h6⟩ := fields_encodeDataProcessing c k op f rn rd sub
  rw [decodeWord_of (cond_encodeDataProcessing ..) (classify_encodeDataProcessing _ _ _ _ _ _ _ h)]
  simp only [decodeFormat, h1, h2, h3, h4, h5, h6, ofCode_code]

/-- The shared half of the three branch rows. -/
theorem ofBranch (c : Condition) (l : Bool) (o : BitVec 24) :
    decodeWord (encodeBranch c l o) = if l then .bl c o else .b c o := by
  obtain ⟨h1, h2⟩ := fields_encodeBranch c l o
  rw [decodeWord_of (cond_encodeBranch ..) (classify_encodeBranch ..)]
  simp only [decodeFormat, h1, h2]

theorem branchExchange (c : Condition) (rn : Reg) : Statement (.branchExchange c rn) := by
  intro _
  obtain ⟨hc, hf⟩ := encode_branchExchange c rn
  rw [decodeWord_of hc hf]
  simp only [decodeFormat, Instr.refined, Instr.branchExchange.injEq, encode, slice_getLsbD, bv_eq_iff, forall_lt_succ_iff, forall_lt_zero_iff, BitVec.getLsbD_or, place_getLsbD]
  simp

theorem branchLink (c : Condition) (l : Bool) (o : BitVec 24) : Statement (.branchLink c l o) := fun _ => ofBranch c l o

theorem b (c : Condition) (o : BitVec 24) : Statement (.b c o) := fun _ => ofBranch c false o

theorem bl (c : Condition) (o : BitVec 24) : Statement (.bl c o) := fun _ => ofBranch c true o

theorem multiply (c : Condition) (w f : Bool) (rd rn rs rm : Reg) : Statement (.multiply c w f rd rn rs rm) := by
  intro _
  obtain ⟨hc, hf⟩ := encode_multiply c w f rd rn rs rm
  rw [decodeWord_of hc hf]
  simp only [decodeFormat, Instr.refined, Instr.multiply.injEq, encode, bit_eq, slice_getLsbD, bv_eq_iff, forall_lt_succ_iff, forall_lt_zero_iff, BitVec.getLsbD_or, place_getLsbD, placeBit_getLsbD]
  simp

theorem multiplyLong (c : Condition) (u w f : Bool) (rdHi rd rn rm : Reg) : Statement (.multiplyLong c u w f rdHi rd rn rm) := by
  intro _
  obtain ⟨hc, hf⟩ := encode_multiplyLong c u w f rdHi rd rn rm
  rw [decodeWord_of hc hf]
  simp only [decodeFormat, Instr.refined, Instr.multiplyLong.injEq, encode, bit_eq, slice_getLsbD, bv_eq_iff, forall_lt_succ_iff, forall_lt_zero_iff, BitVec.getLsbD_or, place_getLsbD, placeBit_getLsbD]
  simp

theorem singleDataTransfer (c : Condition) (k p u z w l : Bool) (rn rd : Reg) (sub : BitVec 12) : Statement (.singleDataTransfer c k p u z w l rn rd sub) := by
  intro _
  obtain ⟨hc, hf⟩ := encode_singleDataTransfer c k p u z w l rn rd sub
  rw [decodeWord_of hc hf]
  simp only [decodeFormat, Instr.refined, Instr.singleDataTransfer.injEq, encode, bit_eq, slice_getLsbD, bv_eq_iff, forall_lt_succ_iff, forall_lt_zero_iff, BitVec.getLsbD_or, place_getLsbD, placeBit_getLsbD]
  simp

theorem halfwordSignedTransferReg (c : Condition) (p u w l : Bool) (rn rd : Reg) (sh : BitVec 2) (rm : Reg) : Statement (.halfwordSignedTransferReg c p u w l rn rd sh rm) := by
  intro h
  obtain ⟨hc, hf⟩ := encode_halfwordSignedTransferReg c p u w l rn rd sh rm h
  rw [decodeWord_of hc hf]
  simp only [decodeFormat, Instr.refined, Instr.halfwordSignedTransferReg.injEq, encode, bit_eq, slice_getLsbD, bv_eq_iff, forall_lt_succ_iff, forall_lt_zero_iff, BitVec.getLsbD_or, place_getLsbD, placeBit_getLsbD]
  simp

theorem halfwordSignedTransferImm (c : Condition) (p u w l : Bool) (rn rd : Reg) (hi : BitVec 4) (sh : BitVec 2) (lo : BitVec 4) : Statement (.halfwordSignedTransferImm c p u w l rn rd hi sh lo) := by
  intro h
  obtain ⟨hc, hf⟩ := encode_halfwordSignedTransferImm c p u w l rn rd hi sh lo h
  rw [decodeWord_of hc hf]
  simp only [decodeFormat, Instr.refined, Instr.halfwordSignedTransferImm.injEq, encode, bit_eq, slice_getLsbD, bv_eq_iff, forall_lt_succ_iff, forall_lt_zero_iff, BitVec.getLsbD_or, place_getLsbD, placeBit_getLsbD]
  simp

theorem blockDataTransfer (c : Condition) (p u z w l : Bool) (rn : Reg) (list : BitVec 16) : Statement (.blockDataTransfer c p u z w l rn list) := by
  intro _
  obtain ⟨hc, hf⟩ := encode_blockDataTransfer c p u z w l rn list
  rw [decodeWord_of hc hf]
  simp only [decodeFormat, Instr.refined, Instr.blockDataTransfer.injEq, encode, bit_eq, slice_getLsbD, bv_eq_iff, forall_lt_succ_iff, forall_lt_zero_iff, BitVec.getLsbD_or, place_getLsbD, placeBit_getLsbD]
  simp

/-- Empty under the literal table: no swap is well-formed (R82). -/
theorem singleDataSwap (c : Condition) (z : Bool) (rn rd rm : Reg) : Statement (.singleDataSwap c z rn rd rm) :=
  fun h => nomatch h

theorem moveFromPsr (c : Condition) (z : Bool) (rd : Reg) : Statement (.moveFromPsr c z rd) := by
  intro _
  obtain ⟨hc, hf⟩ := encode_moveFromPsr c z rd
  rw [decodeWord_of hc hf]
  simp only [decodeFormat, Instr.refined, Instr.moveFromPsr.injEq, encode, bit_eq, slice_getLsbD, bv_eq_iff, forall_lt_succ_iff, forall_lt_zero_iff, BitVec.getLsbD_or, place_getLsbD, placeBit_getLsbD]
  simp

theorem moveToPsrReg (c : Condition) (z : Bool) (rm : Reg) : Statement (.moveToPsrReg c z rm) := by
  intro _
  obtain ⟨hc, hf⟩ := encode_moveToPsrReg c z rm
  rw [decodeWord_of hc hf]
  simp only [decodeFormat, Instr.refined, Instr.moveToPsrReg.injEq, encode, bit_eq, slice_getLsbD, bv_eq_iff, forall_lt_succ_iff, forall_lt_zero_iff, BitVec.getLsbD_or, place_getLsbD, placeBit_getLsbD]
  simp

theorem moveToPsrFlags (c : Condition) (k z : Bool) (sub : BitVec 12) : Statement (.moveToPsrFlags c k z sub) := by
  intro h
  obtain ⟨hc, hf⟩ := encode_moveToPsrFlags c k z sub h
  rw [decodeWord_of hc hf]
  simp only [decodeFormat, Instr.refined, Instr.moveToPsrFlags.injEq, encode, bit_eq, slice_getLsbD, bv_eq_iff, forall_lt_succ_iff, forall_lt_zero_iff, BitVec.getLsbD_or, place_getLsbD, placeBit_getLsbD]
  simp

theorem dataProcessing (c : Condition) (k : Bool) (op : OpCode) (f : Bool) (rn rd : Reg) (sub : BitVec 12) :
    Statement (.dataProcessing c k op f rn rd sub) := fun h => ofDataProcessing c k op f rn rd sub h

theorem and (c : Condition) (k f : Bool) (rn rd : Reg) (o : BitVec 12) : Statement (.and c k f rn rd o) :=
  fun h => ofDataProcessing c k .and f rn rd o h

theorem eor (c : Condition) (k f : Bool) (rn rd : Reg) (o : BitVec 12) : Statement (.eor c k f rn rd o) :=
  fun h => ofDataProcessing c k .eor f rn rd o h

theorem sub (c : Condition) (k f : Bool) (rn rd : Reg) (o : BitVec 12) : Statement (.sub c k f rn rd o) :=
  fun h => ofDataProcessing c k .sub f rn rd o h

theorem rsb (c : Condition) (k f : Bool) (rn rd : Reg) (o : BitVec 12) : Statement (.rsb c k f rn rd o) :=
  fun h => ofDataProcessing c k .rsb f rn rd o h

theorem add (c : Condition) (k f : Bool) (rn rd : Reg) (o : BitVec 12) : Statement (.add c k f rn rd o) :=
  fun h => ofDataProcessing c k .add f rn rd o h

theorem adc (c : Condition) (k f : Bool) (rn rd : Reg) (o : BitVec 12) : Statement (.adc c k f rn rd o) :=
  fun h => ofDataProcessing c k .adc f rn rd o h

theorem sbc (c : Condition) (k f : Bool) (rn rd : Reg) (o : BitVec 12) : Statement (.sbc c k f rn rd o) :=
  fun h => ofDataProcessing c k .sbc f rn rd o h

theorem rsc (c : Condition) (k f : Bool) (rn rd : Reg) (o : BitVec 12) : Statement (.rsc c k f rn rd o) :=
  fun h => ofDataProcessing c k .rsc f rn rd o h

theorem tst (c : Condition) (k f : Bool) (rn rd : Reg) (o : BitVec 12) : Statement (.tst c k f rn rd o) :=
  fun h => ofDataProcessing c k .tst f rn rd o h

theorem teq (c : Condition) (k f : Bool) (rn rd : Reg) (o : BitVec 12) : Statement (.teq c k f rn rd o) :=
  fun h => ofDataProcessing c k .teq f rn rd o h

theorem cmp (c : Condition) (k f : Bool) (rn rd : Reg) (o : BitVec 12) : Statement (.cmp c k f rn rd o) :=
  fun h => ofDataProcessing c k .cmp f rn rd o h

theorem cmn (c : Condition) (k f : Bool) (rn rd : Reg) (o : BitVec 12) : Statement (.cmn c k f rn rd o) :=
  fun h => ofDataProcessing c k .cmn f rn rd o h

theorem orr (c : Condition) (k f : Bool) (rn rd : Reg) (o : BitVec 12) : Statement (.orr c k f rn rd o) :=
  fun h => ofDataProcessing c k .orr f rn rd o h

theorem mov (c : Condition) (k f : Bool) (rn rd : Reg) (o : BitVec 12) : Statement (.mov c k f rn rd o) :=
  fun h => ofDataProcessing c k .mov f rn rd o h

theorem bic (c : Condition) (k f : Bool) (rn rd : Reg) (o : BitVec 12) : Statement (.bic c k f rn rd o) :=
  fun h => ofDataProcessing c k .bic f rn rd o h

theorem mvn (c : Condition) (k f : Bool) (rn rd : Reg) (o : BitVec 12) : Statement (.mvn c k f rn rd o) :=
  fun h => ofDataProcessing c k .mvn f rn rd o h

theorem noFormat (c : Condition) (body : BitVec 26) : Statement (.noFormat c body) := by
  intro _
  obtain ⟨hc, hf⟩ := encode_noFormat c body
  rw [decodeWord_noFormat hc hf]
  simp only [Instr.refined, Instr.noFormat.injEq, encode, slice_getLsbD, bv_eq_iff, forall_lt_succ_iff, forall_lt_zero_iff, BitVec.getLsbD_or, place_getLsbD]
  simp

theorem reservedCondition (body : BitVec 28) : Statement (.reservedCondition body) := by
  intro _
  rw [decodeWord_reserved (encode_reservedCondition body)]
  simp only [Instr.refined, Instr.reservedCondition.injEq, encode, slice_getLsbD, bv_eq_iff, forall_lt_succ_iff, forall_lt_zero_iff, BitVec.getLsbD_or, place_getLsbD]
  simp

end Sys2Proof.Laws.RoundTrip
end

