-- ==== Sys2Proof/Tests/Slice0.lean ====
section
/-! SUPPORT. Tests on fixed values, every expected result taken from spec/: the well-formedness smoke, each row's word
written out from its pattern string (R34), one step per format on the spec's own vectors (95_test_vectors.md), and for
every statement with hypotheses a witness that meets them. -/

namespace Sys2Proof.Tests

open Sys2Proof Sys2Proof.Machine

/-! ### Helpers -/

/-- The reset state with a pair on its inputs. -/
def inputs (raw addr : Word) : State := { State.reset with raw := raw, addr := addr }

/-- What one step answers on a pair. -/
def answerAt (raw addr : Word) : Option Answer :=
  match step (inputs raw addr) with
  | .next t => some t.answer
  | .fault _ => none
  | .refused _ => none

/-- What one step shows beside a descriptor: the condition, the format and the extractors. -/
def shown (raw : Word) : Option (Condition × Format × Extracted) :=
  match answerAt raw 0#32 with
  | some (.descriptor d x) => some (d.cond, d.fmt, x)
  | _ => none

/-! ### Well-formedness: an ill-formed term for each check, refused, and a neighbour accepted (R81) -/

theorem test_wf_halfwordReg_multiply_space :
    Instr.wellFormed (.halfwordSignedTransferReg .always false true false false 0#4 0#4 0b00#2 0#4) = false := by decide
theorem test_wf_halfwordReg_ok :
    Instr.wellFormed (.halfwordSignedTransferReg .always true true false false 0#4 0#4 0b00#2 0#4) = true := by decide
theorem test_wf_halfwordImm_multiplyLong_space :
    Instr.wellFormed (.halfwordSignedTransferImm .always false true false false 0#4 0#4 0#4 0b00#2 0#4) = false := by decide
theorem test_wf_halfwordImm_ok :
    Instr.wellFormed (.halfwordSignedTransferImm .always false false false false 0#4 0#4 0#4 0b00#2 0#4) = true := by decide
theorem test_wf_swap_has_no_word : Instr.wellFormed (.singleDataSwap .always false 0#4 2#4 1#4) = false := by decide
theorem test_wf_psrFlags_shadowed_by_rule_6 : Instr.wellFormed (.moveToPsrFlags .always false false 0x090#12) = false := by decide
theorem test_wf_psrFlags_shadowed_by_rule_7 : Instr.wellFormed (.moveToPsrFlags .always false true 0x0F0#12) = false := by decide
theorem test_wf_psrFlags_ok : Instr.wellFormed (.moveToPsrFlags .always false false 0x190#12) = true := by decide
theorem test_wf_dp_row1 : Instr.wellFormed (.teq .always false false 15#4 15#4 0xF1E#12) = false := by decide
theorem test_wf_dp_row3 : Instr.wellFormed (.and .always false false 1#4 0#4 0x392#12) = false := by decide
theorem test_wf_dp_row4 : Instr.wellFormed (.adc .always false false 5#4 4#4 0x396#12) = false := by decide
theorem test_wf_dp_row6 : Instr.wellFormed (.orr .always false true 1#4 0#4 0x0B2#12) = false := by decide
theorem test_wf_dp_row7 : Instr.wellFormed (.bic .always false true 1#4 2#4 0x0B2#12) = false := by decide
theorem test_wf_dp_row10 : Instr.wellFormed (.tst .always false false 15#4 0#4 0#12) = false := by decide
theorem test_wf_dp_row11 : Instr.wellFormed (.teq .always false false 9#4 15#4 0#12) = false := by decide
theorem test_wf_dp_row12 : Instr.wellFormed (.teq .always true false 8#4 15#4 0x20F#12) = false := by decide
theorem test_wf_dp_format_row : Instr.wellFormed (.dataProcessing .always false .tst false 15#4 0#4 0#12) = false := by decide
theorem test_wf_dp_ok : Instr.wellFormed (.teq .always false false 9#4 15#4 0x010#12) = true := by decide

/-! ### Decoding: a word of each row, bit by bit from its pattern string (R34) and the table's fields -/

-- cccc 0001 0010 1111 1111 1111 0001 nnnn
theorem test_decode_branchExchange :
    decodeWord 0b0000_0001_0010_1111_1111_1111_0001_1011#32 = .branchExchange .equal 11#4 := by decide
-- cccc 1010 oooo …
theorem test_decode_b : decodeWord 0b1011_1010_1000_0000_0000_0000_0000_0110#32 = .b .lessThan 0x800006#24 := by decide
-- cccc 1011 oooo …
theorem test_decode_bl : decodeWord 0b0101_1011_0000_0000_0000_0000_0011_1010#32 = .bl .positiveOrZero 0x00003A#24 := by decide
-- cccc 0000 00WL dddd nnnn xxxx 1001 mmmm
theorem test_decode_multiply :
    decodeWord 0b1110_0000_0010_0001_0100_0011_1001_0010#32 = .multiply .always true false 1#4 4#4 3#4 2#4 := by decide
-- cccc 0000 1BWL xxxx dddd nnnn 1001 mmmm
theorem test_decode_multiplyLong :
    decodeWord 0b1110_0000_1010_0101_0100_0011_1001_0110#32 =
      .multiplyLong .always false true false 5#4 4#4 3#4 6#4 := by decide
-- cccc 01IP UBWL nnnn dddd oooo oooo oooo
theorem test_decode_singleDataTransfer :
    decodeWord 0b0110_0110_0101_0111_1000_1010_1011_1100#32 =
      .singleDataTransfer .overflow true false false true false true 7#4 8#4 0xABC#12 := by decide
-- cccc 000P U0WL nnnn dddd 0000 1xx1 mmmm
theorem test_decode_halfwordReg :
    decodeWord 0b1110_0001_1001_0001_0000_0000_1011_0010#32 =
      .halfwordSignedTransferReg .always true true false true 1#4 0#4 0b01#2 2#4 := by decide
-- cccc 000P U1WL nnnn dddd xxxx 1xx1 xxxx
theorem test_decode_halfwordImm :
    decodeWord 0b1000_0000_0110_0001_0010_0101_1101_0011#32 =
      .halfwordSignedTransferImm .unsignedHigher false false true false 1#4 2#4 5#4 0b10#2 3#4 := by decide
-- cccc 100P UBWL nnnn rrrr rrrr rrrr rrrr
theorem test_decode_blockDataTransfer :
    decodeWord 0b1110_1001_0010_1101_0100_0000_0001_0000#32 =
      .blockDataTransfer .always true false false true false 13#4 0x4010#16 := by decide
-- cccc 0001 0B00 nnnn dddd 0000 1001 mmmm: its own row only under the repaired order (D13)
theorem test_decode_singleDataSwap_repaired :
    decodeWordWith Config.classifierRulesRepaired 0b1110_0001_0100_0000_0010_0000_1001_0001#32 =
      .singleDataSwap .always true 0#4 2#4 1#4 := by decide
theorem test_decode_singleDataSwap_literal :
    decodeWord 0b1110_0001_0000_0000_0010_0000_1001_0001#32 =
      .halfwordSignedTransferReg .always true false false false 0#4 2#4 0b00#2 1#4 := by decide
-- cccc 0001 0B00 1111 dddd 0000 0000 0000
theorem test_decode_moveFromPsr : decodeWord 0b0011_0001_0100_1111_0101_0000_0000_0000#32 = .moveFromPsr .unsignedLower true 5#4 := by decide
-- cccc 0001 0B10 1001 1111 0000 0000 mmmm
theorem test_decode_moveToPsrReg : decodeWord 0b1110_0001_0110_1001_1111_0000_0000_0011#32 = .moveToPsrReg .always true 3#4 := by decide
-- cccc 00I1 0B10 1000 1111 oooo oooo oooo
theorem test_decode_moveToPsrFlags :
    decodeWord 0b1110_0011_0010_1000_1111_0010_0000_1111#32 = .moveToPsrFlags .always true false 0x20F#12 := by decide
-- cccc 00Ip pppL nnnn dddd oooo oooo oooo, opcode by opcode
theorem test_decode_and : decodeWord 0b1110_0000_0001_0010_0011_0000_0000_0100#32 = .and .always false true 2#4 3#4 4#12 := by decide
theorem test_decode_eor : decodeWord 0b1110_0010_0010_0010_0011_1111_0000_0100#32 = .eor .always true false 2#4 3#4 0xF04#12 := by decide
theorem test_decode_sub : decodeWord 0b1110_0010_0101_0000_0000_0000_0000_0001#32 = .sub .always true true 0#4 0#4 1#12 := by decide
theorem test_decode_rsb : decodeWord 0b0001_0000_0110_0001_0010_0000_0000_0011#32 = .rsb .notEqual false false 1#4 2#4 3#12 := by decide
theorem test_decode_add : decodeWord 0b1110_0000_1000_0001_0001_0001_1000_0010#32 = .add .always false false 1#4 1#4 0x182#12 := by decide
theorem test_decode_adc : decodeWord 0b1110_0000_1011_0001_0010_0000_0000_0011#32 = .adc .always false true 1#4 2#4 3#12 := by decide
theorem test_decode_sbc : decodeWord 0b1110_0010_1100_0001_0010_0000_0000_0011#32 = .sbc .always true false 1#4 2#4 3#12 := by decide
theorem test_decode_rsc : decodeWord 0b1110_0000_1110_0001_0010_0000_0000_0011#32 = .rsc .always false false 1#4 2#4 3#12 := by decide
theorem test_decode_tst : decodeWord 0b1110_0001_0001_0001_0010_0000_0000_0011#32 = .tst .always false true 1#4 2#4 3#12 := by decide
theorem test_decode_teq : decodeWord 0b1110_0001_0010_1111_1111_1111_0000_0000#32 = .teq .always false false 15#4 15#4 0xF00#12 := by decide
theorem test_decode_cmp : decodeWord 0b1110_0011_0101_0001_0000_0000_1111_1111#32 = .cmp .always true true 1#4 0#4 0x0FF#12 := by decide
theorem test_decode_cmn : decodeWord 0b1110_0001_0111_0001_0000_0000_0000_0011#32 = .cmn .always false true 1#4 0#4 3#12 := by decide
theorem test_decode_orr : decodeWord 0b1101_0001_1001_0001_0010_0000_0000_0011#32 = .orr .lessThanOrEqual false true 1#4 2#4 3#12 := by decide
theorem test_decode_mov : decodeWord 0b1110_0011_1010_0000_0000_0000_0000_0001#32 = .mov .always true false 0#4 0#4 1#12 := by decide
theorem test_decode_bic : decodeWord 0b1110_0011_1101_0001_0010_0000_0000_0011#32 = .bic .always true true 1#4 2#4 3#12 := by decide
theorem test_decode_mvn : decodeWord 0b1110_0001_1110_0000_0010_0000_0000_0011#32 = .mvn .always false false 0#4 2#4 3#12 := by decide
-- cccc 11xx …
theorem test_decode_noFormat : decodeWord 0b1110_1111_0000_0000_0000_0000_0000_0101#32 = .noFormat .always 0x3000005#26 := by decide
-- 1111 xxxx …
theorem test_decode_reservedCondition : decodeWord 0b1111_0011_1010_0000_0000_0000_0000_0001#32 = .reservedCondition 0x3A00001#28 := by decide

/-! ### Bytes and table words -/

-- V12: 05 00 A0 E3, lowest address first
theorem test_bytes_little_endian :
    decodeBytes [0x05#8, 0x00#8, 0xA0#8, 0xE3#8, 0x77#8] = .ok (.mov .always true false 0#4 0#4 5#12, [0x77#8]) := by decide
theorem test_bytes_three_refused : decodeBytes [0x05#8, 0x00#8, 0xA0#8] = .error .fewerThanFourBytes := by decide
theorem test_table_word : decodeTableWord 32 0xE12FFF1E = some (.branchExchange .always 14#4) := by decide
theorem test_table_word_too_long : decodeTableWord 48 0 = none := by decide

/-! ### The Bit Accessor and the arithmetic helpers (V6) -/

theorem test_bit : bit 0xE3A00001#32 25 = true ∧ bit 0xE3A00001#32 20 = false ∧ bit 0xE3A00001#32 31 = true := by decide
theorem test_bitRange :
    bitRange 0xE3A00001#32 28 32 = 0xE#32 ∧ bitRange 0xE3A00001#32 21 25 = 0xD#32 ∧
      bitRange 0xE3A00001#32 0 32 = 0xE3A00001#32 ∧ bitRange 0xE3A00001#32 5 5 = 0#32 ∧ bitRange 0x80000001#32 1 31 = 0#32 := by decide
theorem test_sext24 : (sext24 0x7FFFFF#24).toInt = 8388607 ∧ (sext24 0x800000#24).toInt = -8388608 ∧ (sext24 0xFFFFFF#24).toInt = -1 := by decide
theorem test_asr32 : (asr32 0xFFFFFFFF#32 8).toInt = -1 := by decide
theorem test_ror32 :
    ror32 0x000000FF#32 8 = 0xFF000000#32 ∧ ror32 0x00000001#32 2 = 0x40000000#32 ∧ ror32 0x0000003F#32 30 = 0x000000FC#32 ∧
      ror32 0x00000001#32 0 = 0x00000001#32 := by decide
theorem test_asI32 : asI32 0xF000000F#32 = -268435441 ∧ asI32 0x7FFFFFFF#32 = 2147483647 := by decide

/-! ### The Condition Decoder (V7) and the classifier's boundaries (V8) -/

theorem test_condition_codes :
    ((List.range 16).map fun k => decodeCondition (BitVec.ofNat 4 k)) =
      [.ok .equal, .ok .notEqual, .ok .unsignedHigherOrSame, .ok .unsignedLower, .ok .negative, .ok .positiveOrZero,
       .ok .overflow, .ok .noOverflow, .ok .unsignedHigher, .ok .unsignedLowerOrSame, .ok .greaterOrEqual, .ok .lessThan,
       .ok .greaterThan, .ok .lessThanOrEqual, .ok .always, .error (.reservedConditionCode 15#4)] := by decide
theorem test_classify_narrow_in_fallback :
    ([0xE12FFF10#32, 0xE12FFF00#32, 0xE12FFF30#32, 0xE02FFF10#32].map classify) =
      [some .branchExchange, some .dataProcessing, some .dataProcessing, some .dataProcessing] := by decide
theorem test_classify_multiplies :
    ([0xE0000090#32, 0xE0300090#32, 0xE0400090#32, 0xE0800090#32, 0xE0F00090#32].map classify) =
      [some .multiply, some .multiply, some .halfwordSignedTransferImm, some .multiplyLong, some .multiplyLong] := by decide
theorem test_classify_halfwords :
    ([0xE1800090#32, 0xE00000B0#32, 0xE00001B0#32, 0xE04001B0#32].map classify) =
      [some .halfwordSignedTransferReg, some .halfwordSignedTransferReg, some .dataProcessing, some .halfwordSignedTransferImm] := by decide
theorem test_classify_psr :
    ([0xE10F0001#32, 0xE10F0090#32, 0xE129F010#32, 0xE329F000#32, 0xE128F010#32, 0xE128F190#32, 0xE128F090#32, 0xE168F0F0#32].map classify) =
      [some .dataProcessing, some .halfwordSignedTransferReg, some .dataProcessing, some .dataProcessing, some .moveToPsrFlags,
       some .moveToPsrFlags, some .halfwordSignedTransferReg, some .halfwordSignedTransferImm] := by decide
theorem test_classify_extremes :
    ([0xE4000000#32, 0xE7FFFFFF#32, 0xE8000000#32, 0xE9FFFFFF#32, 0xEBFFFFFF#32, 0xEC000000#32, 0xE3FFFFFF#32].map classify) =
      [some .singleDataTransfer, some .singleDataTransfer, some .blockDataTransfer, some .blockDataTransfer, some .branchLink,
       none, some .dataProcessing] := by decide

/-! ### The Shift/Operand Decoder (V9) -/

theorem test_decodeShift :
    ([0x102#12, 0x0A3#12, 0x060#12, 0xFE5#12, 0x211#12, 0x3D4#12, 0xF7F#12].map decodeShift) =
      [.immediateShift 2#5 .logicalLeft, .immediateShift 1#5 .logicalRight, .immediateShift 0#5 .rotateRight,
       .immediateShift 31#5 .rotateRight, .registerShift 2#4 .logicalLeft, .registerShift 3#4 .arithmeticRight,
       .registerShift 15#4 .rotateRight] := by decide
theorem test_operand2 :
    ([0xE3A0020F#32, 0xE1A01FE5#32, 0xE1A00211#32].map operand2) =
      [.rotatedImmediate 0x0F#8 ⟨4#5, rfl⟩, .shiftedRegister 5#4 (.immediateShift 31#5 .rotateRight),
       .shiftedRegister 1#4 (.registerShift 2#4 .logicalLeft)] := by decide
theorem test_offset :
    ([0xE5901FFF#32, 0xE7804102#32, 0xE7910012#32].map offset) =
      [.immediateValue 4095#12, .shiftedRegister 2#4 (.immediateShift 2#5 .logicalLeft),
       .shiftedRegister 2#4 (.registerShift 0#4 .logicalLeft)] := by decide
theorem test_rotatedImmediateValue :
    (rotatedImmediateValue 0xFF#8 ⟨2#5, rfl⟩).toInt = -1073741761 ∧ (rotatedImmediateValue 0xFF#8 ⟨30#5, rfl⟩).toInt = 1020 := by decide

/-! ### One step per row, on the spec's vectors (R86, V1 to V4, V10 to V14) -/

theorem test_step_branchExchange :
    (shown 0xE12FFF13#32).map (fun (c, f, x) => (c, f, x.rn, x.rd, x.rm)) = some (.always, .branchExchange, 3#4, 15#4, 3#4) := by decide
theorem test_step_b :
    (shown 0x1AFFFFFD#32).map (fun (c, f, x) => (c, f, x.preIndexFlag, x.branchOffset.toInt)) =
      some (.notEqual, .branchLink, false, -4) := by decide
theorem test_step_bl :
    (shown 0xEB00003A#32).map (fun (c, f, x) => (c, f, x.preIndexFlag, x.branchOffset.toInt)) =
      some (.always, .branchLink, true, 240) := by decide
theorem test_step_multiply :
    (shown 0xE0090A9B#32).map (fun (_, f, x) => (f, x.rn, x.rd, x.rm)) = some (.multiply, 0#4, 9#4, 11#4) := by decide
theorem test_step_multiplyLong :
    (shown 0xE08B9A98#32).map (fun (_, f, x) => (f, x.rn, x.rd, x.rm)) = some (.multiplyLong, 10#4, 9#4, 8#4) := by decide
theorem test_step_singleDataTransfer :
    (shown 0xE5B01004#32).map (fun (_, f, x) => (f, x.rn, x.rd, x.offset, x.transferSize)) =
      some (.singleDataTransfer, 0#4, 1#4, .immediateValue 4#12, .fourBytes) := by decide
theorem test_step_singleDataTransfer_flags :
    (shown 0xE4101004#32).map (fun (_, _, x) => (x.preIndexFlag, x.addOffsetFlag, x.psrFlag, x.writeBackFlag, x.loadFlag)) =
      some (false, false, false, false, true) := by decide
theorem test_step_halfwordReg :
    (shown 0xE19100B2#32).map (fun (_, f, x) => (f, x.rn, x.rd, x.rm)) = some (.halfwordSignedTransferReg, 1#4, 0#4, 2#4) := by decide
theorem test_step_halfwordImm :
    (shown 0xE1D120B2#32).map (fun (_, f, x) => ((f, x.rn, x.rd), x.preIndexFlag, x.addOffsetFlag, x.writeBackFlag, x.loadFlag)) =
      some ((.halfwordSignedTransferImm, 1#4, 2#4), true, true, false, true) := by decide
theorem test_step_blockDataTransfer :
    (shown 0xE92D4010#32).map (fun (_, f, x) => (f, x.rn, x.registerList, x.writeBackFlag, x.loadFlag)) =
      some (.blockDataTransfer, 13#4, [4#4, 14#4], true, false) := by decide
theorem test_step_blockDataTransfer_list_ends :
    (shown 0xE8908001#32).map (fun (_, _, x) => x.registerList) = some [0#4, 15#4] ∧
      (shown 0xE8900000#32).map (fun (_, _, x) => x.registerList) = some [] := by decide
theorem test_step_swap_words :
    (shown 0xE1002091#32).map (fun (_, f, x) => (f, x.rn, x.rd, x.rm)) = some (.halfwordSignedTransferReg, 0#4, 2#4, 1#4) ∧
      (shown 0xE1402091#32).map (fun (_, f, x) => (f, x.rn, x.rd, x.rm)) = some (.halfwordSignedTransferImm, 0#4, 2#4, 1#4) := by decide
theorem test_step_moveFromPsr :
    (shown 0xE14F0000#32).map (fun (_, f, x) => (f, x.rd, x.psrFlag)) = some (.moveFromPsr, 0#4, true) := by decide
theorem test_step_moveToPsrReg :
    (shown 0xE169F003#32).map (fun (_, f, x) => (f, x.rm, x.psrFlag)) = some (.moveToPsrReg, 3#4, true) := by decide
theorem test_step_moveToPsrFlags :
    (shown 0xE328F20F#32).map (fun (_, f, x) => (f, x.psrFlag, x.operand2, x.operand2Value)) =
      some (.moveToPsrFlags, false, .rotatedImmediate 0x0F#8 ⟨4#5, rfl⟩, some 0xF0000000#32) := by decide
-- the source's own example (V1)
theorem test_step_mov :
    (shown 0xE3A00001#32).map (fun (c, f, x) => ((c, f, x.opcode), x.rd, x.operand2, x.operand2Value)) =
      some ((.always, .dataProcessing, .mov), 0#4, .rotatedImmediate 1#8 ⟨0#5, rfl⟩, some 1#32) := by decide
theorem test_step_sub :
    (shown 0xE2500001#32).map (fun (_, f, x) => (f, x.opcode, x.loadFlag)) = some (.dataProcessing, .sub, true) := by decide
-- V10: 0xE0000000 with each code at bits 24:21
theorem test_step_opcodes :
    ((List.range 16).map fun k => (shown (0xE0000000#32 ||| BitVec.ofNat 32 (k * 2097152))).map fun (_, _, x) => x.opcode) =
      [some .and, some .eor, some .sub, some .rsb, some .add, some .adc, some .sbc, some .rsc, some .tst, some .teq,
       some .cmp, some .cmn, some .orr, some .mov, some .bic, some .mvn] := by decide
-- V10, cross-format use: numbers without meaning
theorem test_step_cross_format :
    (shown 0xE3A00001#32).map (fun (_, _, x) => (x.branchOffset.toInt, x.registerList, x.offset)) =
      some (-25165812, [0#4], .shiftedRegister 1#4 (.immediateShift 0#5 .logicalLeft)) := by decide
-- V11: the whole word, condition bits included
theorem test_step_noFormat : answerAt 0xEF000005#32 0x100#32 = some (.error (.unknownInstructionFormat 0xEF000005#32)) := by decide
-- V11: the condition before the format
theorem test_step_reserved_first : answerAt 0xFFFFFFFF#32 0x100#32 = some (.error (.reservedConditionCode 15#4)) := by decide
theorem test_step_address_copied :
    (match answerAt 0xE3A00001#32 0xFFFFFFFF#32 with | some (.descriptor d _) => some (d.raw, d.pc) | _ => none) =
      some (0xE3A00001#32, 0xFFFFFFFF#32) := by decide
-- meanings no step reaches, run directly
theorem test_exec_singleDataSwap :
    (match exec (.singleDataSwap .always true 0#4 2#4 1#4) State.reset with
      | .next t => (match t.answer with | .descriptor d x => some (d.raw, d.fmt, x.rn, x.rd, x.rm) | _ => none)
      | _ => none) = some (0xE1402091#32, .halfwordSignedTransferImm, 0#4, 2#4, 1#4) := by decide
theorem test_exec_format_rows :
    encode (.branchLink .always true 0xFFFFFE#24) = 0xEBFFFFFE#32 ∧
      encode (.dataProcessing .always true .mov false 0#4 0#4 1#12) = 0xE3A00001#32 := by decide
-- ports (R153), with the extractor matrix (R116) spot by spot
theorem test_ports_of_mov :
    (match step (inputs 0xE3A00001#32 0x08000000#32) with
      | .next t => some ((t.ports.ok, t.ports.errKind, t.ports.errInfo), t.ports.dCond, t.ports.dFmt, t.ports.dPc, t.ports.transferSize)
      | _ => none) = some ((true, 0#2, 0#32), 14#4, 13#4, 0x08000000#32, 4#3) := by decide
theorem test_ports_of_errors :
    (match step (inputs 0xEF000005#32 0#32) with | .next t => some (t.ports.ok, t.ports.errKind, t.ports.errInfo) | _ => none) =
        some (false, 2#2, 0xEF000005#32) ∧
      (match step (inputs 0xF0000000#32 0#32) with | .next t => some (t.ports.ok, t.ports.errKind, t.ports.errInfo) | _ => none) =
        some (false, 1#2, 15#32) := by decide
theorem test_applicability :
    scopedTo .rn .branchLink 0xEA000000#32 (rn .branchLink 0xEA000000#32) = none ∧
      scopedTo .rm .dataProcessing 0xE3A00001#32 1#4 = none ∧ scopedTo .rm .dataProcessing 0xE1A00211#32 1#4 = some 1#4 ∧
      applicability .rd .multiplyLong = .stated ∧ applicability .rd .blockDataTransfer = .meaningless ∧
      applicability .psrFlag .moveToPsrReg = .general ∧ applicability .operand2 .singleDataTransfer = .meaningless := by decide

/-! ### Witnesses: for every statement with hypotheses, values that meet them all, each clause at a boundary -/

theorem test_witness_bitRange_bounds : (0 ≤ 32 ∧ 32 ≤ 32) ∧ (32 ≤ 32 ∧ 32 ≤ 32) ∧ bitRange 0x80000001#32 31 32 = 1#32 := by decide
theorem test_witness_slices : 28 + 4 ≤ 32 ∧ 32 + 0 ≤ 32 ∧ (slice 0xE3A00001#32 28 4).setWidth 32 = bitRange 0xE3A00001#32 28 (28 + 4) := by decide
theorem test_witness_split : (0 ≤ 12 ∧ 12 ≤ 32 ∧ 32 ≤ 32) ∧ (0 ≤ 0 ∧ 0 ≤ 0 ∧ 0 ≤ 32) := by decide
theorem test_witness_mask : 0x012FFF10#32 &&& 0x0FFFFFF0#32 = 0x012FFF10#32 ∧ bit 0x0FFFFFF0#32 4 = true ∧ bit 0x0FFFFFF0#32 27 = true := by decide
theorem test_witness_shift_bounds : 31 ≤ 31 ∧ 0 ≤ 31 ∧ 31 < 32 ∧ (asr32 0x80000000#32 31).toInt = -1 ∧ ror32 0x80000000#32 31 = 1#32 := by decide
theorem test_witness_branch_same_field : slice 0xEB00003A#32 0 24 = slice 0x0A00003A#32 0 24 ∧ (0xEB00003A#32 : Word) ≠ 0x0A00003A#32 := by decide
theorem test_witness_branch_extremes : (branchOffset 0xEA7FFFFF#32).toInt = 33554436 ∧ (branchOffset 0xEA800000#32).toInt = -33554424 := by decide
theorem test_witness_descriptor :
    blockDecode 0x00000000#32 7#32 = .ok ⟨⟨.equal, .dataProcessing, 0#32, 7#32⟩, rfl⟩ ∧
      blockDecode 0xE3A00001#32 7#32 = .ok ⟨⟨.always, .dataProcessing, 0xE3A00001#32, 7#32⟩, rfl⟩ := by decide
theorem test_witness_first_match :
    classifyWith [⟨0xF#32, 1#32, .multiply⟩, ⟨0#32, 0#32, .dataProcessing⟩] 1#32 = some .multiply ∧
      classifyWith [⟨0xF#32, 1#32, .multiply⟩, ⟨0#32, 0#32, .dataProcessing⟩] 2#32 = some .dataProcessing ∧
      classifyWith [⟨0xF#32, 1#32, .multiply⟩] 2#32 = none ∧ slice 2#32 28 4 ≠ 15#4 := by decide
theorem test_witness_swap :
    (slice 0xE1002091#32 23 5 = 0b00010#5 ∧ slice 0xE1002091#32 20 2 = 0b00#2 ∧ slice 0xE1002091#32 4 8 = 0b00001001#8 ∧
        bit 0xE1002091#32 22 = false) ∧
      (slice 0xE1402091#32 23 5 = 0b00010#5 ∧ slice 0xE1402091#32 20 2 = 0b00#2 ∧ slice 0xE1402091#32 4 8 = 0b00001001#8 ∧
        bit 0xE1402091#32 22 = true) := by decide
theorem test_witness_not_swap : slice 0xE10000B1#32 4 8 ≠ 0b00001001#8 := by decide
theorem test_witness_overlap :
    (Config.classifierRules[0]?).map Rule.format = some .branchExchange ∧ (Config.classifierRules[12]?).map Rule.format = some .dataProcessing ∧
      (0xE12FFF10#32 &&& 0x0FFFFFF0#32 = 0x012FFF10#32 ∧ 0xE12FFF10#32 &&& 0x0C000000#32 = 0#32) ∧
      (Config.classifierRules[1]?).map Rule.format = some .branchLink := by decide
theorem test_witness_same_body : slice 0x03A00001#32 0 28 = slice 0xF3A00001#32 0 28 := by decide
theorem test_witness_priority :
    (slice 0xF0000000#32 28 4 = 15#4) ∧ (slice 0xEC000000#32 28 4 ≠ 15#4 ∧ classify 0xEC000000#32 = none) ∧
      (slice 0xE3FFFFFF#32 28 4 ≠ 15#4 ∧ classify 0xE3FFFFFF#32 = some .dataProcessing) := by decide
theorem test_witness_address :
    blockDecode 0xEC000000#32 1#32 = .err (.unknownInstructionFormat 0xEC000000#32) ∧
      blockDecode 0xE12FFF1E#32 1#32 = .ok ⟨⟨.always, .branchExchange, 0xE12FFF1E#32, 1#32⟩, rfl⟩ := by decide
theorem test_witness_bit25 : bit 0xE3A00001#32 25 = true ∧ bit 0xE1A00001#32 25 = false := by decide
theorem test_witness_rotated :
    operand2 0xE3A00FFF#32 = .rotatedImmediate 0xFF#8 ⟨30#5, rfl⟩ ∧ (extractAll .dataProcessing 0xE3A00FFF#32).operand2Value = some 0x3FC#32 := by decide
theorem test_witness_no_rotation : (⟨0#5, rfl⟩ : RotateAmount).amount = 0#5 := rfl
theorem test_witness_lost_bit : operand2 0xE1A00311#32 = operand2 0xE1A00391#32 ∧ operand2 0xE1A00301#32 ≠ operand2 0xE1A00381#32 := by decide
theorem test_witness_other_format :
    Format.dataProcessing ≠ .multiply ∧ Format.dataProcessing ≠ .multiplyLong ∧ Format.dataProcessing ≠ .branchExchange := by decide
theorem test_witness_rm :
    operand2 0xE1A00211#32 = .shiftedRegister 1#4 (.registerShift 2#4 .logicalLeft) ∧
      offset 0xE7804102#32 = .shiftedRegister 2#4 (.immediateShift 2#5 .logicalLeft) := by decide
theorem test_witness_reserved_present : slice (inputs 0xF0000000#32 0#32).present.raw 28 4 = 15#4 := by decide
theorem test_witness_good_step : ∃ s t : State, s.Good ∧ step s = .next t ∧ t.answer ≠ .noResult :=
  ⟨inputs 0xE3A00001#32 0#32, _, trivial, rfl, by decide⟩
theorem test_witness_held : (inputs 0xE3A00001#32 4#32).pending = [] ∧ decodeWord (inputs 0xE3A00001#32 4#32).present.raw = .mov .always true false 0#4 0#4 1#12 := by decide
theorem test_witness_pending :
    ({ State.reset with pending := [⟨0xE2500001#32, 4#32⟩, ⟨0xEC000000#32, 8#32⟩] } : State).present =
      { State.reset with raw := 0xE2500001#32, addr := 4#32, pending := [⟨0xEC000000#32, 8#32⟩] } := by decide
theorem test_witness_placed : (State.reset.withFetchWord 32 0xE12FFF1E).present.raw = 0xE12FFF1E#32 ∧
    decodeTableWord 32 0xE12FFF1E = some (.branchExchange .always 14#4) := by decide
theorem test_witness_program :
    ([⟨0xE2500001#32, 4#32⟩, ⟨0xEC000000#32, 8#32⟩] : List Stimulus)[1]? = some ⟨0xEC000000#32, 8#32⟩ ∧
      decodeProgram [⟨0xE2500001#32, 4#32⟩, ⟨0xEC000000#32, 8#32⟩] =
        [.ok ⟨⟨.always, .dataProcessing, 0xE2500001#32, 4#32⟩, rfl⟩, .err (.unknownInstructionFormat 0xEC000000#32)] := by decide
-- the operands at the edge of each selection: a term that meets the premise, beside one that does not
theorem test_witness_halfwordReg_operands : ¬ (true = false ∧ 0b00#2 = 0b00#2) ∧ ¬ (false = false ∧ 0b01#2 = 0b00#2) := by decide
theorem test_witness_halfwordImm_operands : ¬ (false = false ∧ false = true ∧ 0b00#2 = 0b00#2) := by decide
theorem test_witness_psrFlags_operands :
    ¬ (false = false ∧ (0x190#12).getLsbD 7 = true ∧ (0x190#12).getLsbD 4 = true ∧ (false = true ∨ (0x190#12).extractLsb' 8 4 = 0#4)) := by decide
theorem test_witness_dataProcessing_operands : (Instr.dataProcessing .always false .teq false 9#4 15#4 0x010#12).WellFormed := by decide
-- an ill-formed term answers as its word's own row: the table's bare pattern of the register halfword row is a Multiply (R86)
theorem test_exec_ill_formed :
    (match exec (.halfwordSignedTransferReg .always false false false false 0#4 0#4 0b00#2 0#4) State.reset with
      | .next t => (match t.answer with | .descriptor d _ => some (d.raw, d.fmt) | _ => none)
      | _ => none) = some (0xE0000090#32, .multiply) := by decide
-- a cell with a meaning beside one without, and the one cell that bit 25 decides, on both sides of it
theorem test_witness_scoped :
    (Format.singleDataTransfer ∈ ([.singleDataTransfer] : List Format) ∧ ¬ (Extractor.offset = .rm) ∧
        Format.singleDataSwap ∉ ([.singleDataTransfer] : List Format)) ∧
      (bit 0xE1A00001#32 25 = false ∧ scopedTo .rm .dataProcessing 0xE1A00001#32 true = some true) ∧
      (bit 0xE328F001#32 25 = true ∧ scopedTo .rm .moveToPsrFlags 0xE328F001#32 true = none) := by decide
theorem test_witness_same_inputs : ∃ s s' t t' : State, s ≠ s' ∧ s.present.raw = s'.present.raw ∧ s.present.addr = s'.present.addr ∧
    step s = .next t ∧ step s' = .next t' :=
  ⟨inputs 0xEC000000#32 4#32, { State.reset with pending := [⟨0xEC000000#32, 4#32⟩] }, _, _, by decide, rfl, rfl, rfl, rfl⟩
theorem test_witness_port_cases :
    (slice 0xFFFFFFFF#32 28 4 = 15#4) ∧ (slice 0xEFFFFFFF#32 28 4 ≠ 15#4 ∧ slice 0xEFFFFFFF#32 26 2 = 0b11#2) ∧
      (slice 0xEBFFFFFF#32 28 4 ≠ 15#4 ∧ slice 0xEBFFFFFF#32 26 2 ≠ 0b11#2) := by decide
theorem test_witness_well_formed : (Instr.mov .always true false 0#4 0#4 1#12).WellFormed ∧ ∃ t, step (inputs (encode (.mov .always true false 0#4 0#4 1#12)) 0#32) = .next t :=
  ⟨by decide, _, rfl⟩

end Sys2Proof.Tests
end

section
/-! SUPPORT. What one step of the machine does, said once, and the statements of `10_state.md`. -/

namespace Sys2Proof.Proofs

open Sys2Proof.Machine Sys2Proof.Laws

/-- What a step can do (R59): it completes with the presented state, answering what `decode` returns on the word that the
presented one was read as. -/
theorem step_eq_decode (s : State) : step s = .next (s.present.decode (encode (decodeWord s.present.raw))) :=
  exec_eq_decode (decodeWord s.present.raw) s.present

/-- Every port is a function of the answer and of the two inputs (R51). -/
theorem ports_congr {t t' : State} (hraw : t.raw = t'.raw) (haddr : t.addr = t'.addr) (hans : t.answer = t'.answer) :
    t.ports = t'.ports := by
  simp only [State.ports, hraw, haddr, hans]

/-- What a step shows is a function of the pair it presents: nothing of the earlier outputs comes through (R11). -/
theorem step_answer_ports_congr {s s' t t' : State} (hraw : s.present.raw = s'.present.raw)
    (haddr : s.present.addr = s'.present.addr) (ht : step s = .next t) (ht' : step s' = .next t') :
    t.answer = t'.answer ∧ t.ports = t'.ports := by
  rw [step_eq_decode] at ht ht'
  cases ht
  cases ht'
  have hans : (s.present.decode (encode (decodeWord s.present.raw))).answer =
      (s'.present.decode (encode (decodeWord s'.present.raw))).answer := by
    simp only [decode_answer, hraw, haddr]
  exact ⟨hans, ports_congr hraw haddr hans⟩

/-- Settles O55: both steps answer `decode` of the same pair, and the ports are a function of that answer and pair. -/
theorem outputsDependOnInputsOnly : Obligations.OutputsDependOnInputsOnly := by
  intro s s' t t' hraw haddr ht ht'
  obtain ⟨hans, hports⟩ := step_answer_ports_congr hraw haddr ht ht'
  exact ⟨hans, congrArg Ports.ok hports, congrArg Ports.errKind hports, congrArg Ports.errInfo hports, fun _ => hports⟩

end Sys2Proof.Proofs
end

section
/-! SUPPORT. The Bit Accessor's single bit and the 24-bit sign extension: what each reads of its operand, bit by bit and as
a number, and the statements R60 and R64 of `41_bit_accessor.md`. -/

namespace Sys2Proof.Proofs

open Sys2Proof.Laws

/-- `bit` is the shift-and-mask test (R60). -/
theorem bit_eq_shift_and_one (w : Word) (i : Fin 32) : bit w i = (((w >>> i.val) &&& 1#32) == 1#32) := by
  have hmask : (w >>> i.val) &&& 1#32 = (BitVec.ofBool (bit w i)).setWidth 32 := by
    rw [BitVec.and_one_eq_setWidth_ofBool_getLsbD, BitVec.getLsbD_ushiftRight, Nat.add_zero, bit_eq]
  rw [hmask]
  cases bit w i <;> rfl

/-- A set bit is an odd quotient by its power of two (R60). -/
theorem bit_eq_true_iff_div_mod (w : Word) (i : Fin 32) : bit w i = true ↔ w.toNat / 2 ^ i.val % 2 = 1 := by
  rw [bit_eq, ← BitVec.testBit_toNat, Nat.testBit_eq_decide_div_mod_eq, decide_eq_true_iff]

/-- Settles O1: the masked word is the bit widened, and a number's bit is the parity of its quotient. -/
theorem bitReadsOneBit : Obligations.BitReadsOneBit := fun w i =>
  ⟨bit_eq_shift_and_one w i, bit_eq_true_iff_div_mod w i⟩

/-- The bits of the 24-bit sign extension: the field below bit 24, copies of its bit 23 from there on (R64). -/
theorem sext24_getLsbD (v : BitVec 24) {k : Nat} (hk : k < 32) :
    (sext24 v).getLsbD k = if k < 24 then v.getLsbD k else v.getLsbD 23 := by
  simp only [sext24, asr32, BitVec.getLsbD_sshiftRight, BitVec.msb_eq_getLsbD_last, BitVec.getLsbD_shiftLeft,
    BitVec.getLsbD_setWidth]
  by_cases hfield : k < 24
  · have hshift : 8 + k < 32 := by omega
    simp [hk, hfield, hshift]
  · have hshift : ¬ 8 + k < 32 := by omega
    simp [hk, hfield, hshift]

/-- The shift form of R64 is the two's-complement sign extension. -/
theorem sext24_eq_signExtend (v : BitVec 24) : sext24 v = v.signExtend 32 := by
  refine BitVec.eq_of_getLsbD_eq fun k hk => ?_
  rw [sext24_getLsbD v hk, BitVec.getLsbD_signExtend, BitVec.msb_eq_getLsbD_last, decide_eq_true hk, Bool.true_and]

/-- Sign extension keeps the signed value of the field. -/
@[simp] theorem sext24_toInt (v : BitVec 24) : (sext24 v).toInt = v.toInt := by
  rw [sext24_eq_signExtend, BitVec.toInt_signExtend_of_le (by decide)]

/-- Settles O5: the shift form is the sign extension, so its value and range are those of the signed field. -/
theorem signExtensionOfTwentyFourBits : Obligations.SignExtensionOfTwentyFourBits := by
  intro v
  have hvalue : (sext24 v).toInt = if v.getLsbD 23 then (v.toNat : Int) - 2 ^ 24 else (v.toNat : Int) := by
    rw [sext24_toInt, BitVec.toInt_eq_msb_cond, BitVec.msb_eq_getLsbD_last]
    rfl
  have hlow : -(2 ^ 23) ≤ (sext24 v).toInt := by
    rw [sext24_toInt]
    exact v.le_toInt
  have hhigh : (sext24 v).toInt ≤ 2 ^ 23 - 1 := by
    rw [sext24_toInt]
    exact Int.le_sub_one_of_lt v.toInt_lt
  exact ⟨rfl, hvalue, fun _ => sext24_getLsbD v, hlow, hhigh⟩

end Sys2Proof.Proofs
end

section
/-! SUPPORT. The Condition Decoder as the inverse of `Condition.code`, what a returned record says of its own condition
field, and the statement R71, R72 of `42_condition_decoder.md`. -/

namespace Sys2Proof.Proofs

open Sys2Proof.Laws

/-- No condition has the reserved code (R72). -/
theorem code_ne_reserved (c : Condition) : c.code ≠ 15#4 := by cases c <;> decide

/-- The decoder answers a condition on that condition's code and on no other: the fifteen results are distinct (R71). -/
theorem decodeCondition_eq_ok_iff {code : BitVec 4} {c : Condition} : decodeCondition code = .ok c ↔ c.code = code := by
  constructor
  · intro h
    obtain ⟨c', rfl⟩ | rfl := code_cases code
    · rw [decodeCondition_code] at h
      exact congrArg Condition.code (Except.ok.inj h).symm
    · rw [decodeCondition_reserved] at h
      cases h
  · rintro rfl
    exact decodeCondition_code c

/-- A returned record's condition is the one decoded from the condition field of its own word (R52). -/
theorem decodeCondition_of_decodeRecordWith {rules : List Rule} {raw addr : Word} {d : Descriptor}
    (h : decodeRecordWith rules raw addr = .ok d) : decodeCondition (slice d.raw 28 4) = .ok d.cond := by
  unfold decodeRecordWith at h
  split at h
  next => cases h
  next cond hcond =>
    split at h
    next => cases h
    next => cases h; exact hcond

/-- A descriptor's condition has the code of its word's condition field; the descriptor carries the decode that says so
(R54). -/
theorem decodedDescriptor_cond_code (d : DecodedDescriptor) : d.cond.code = slice d.raw 28 4 :=
  decodeCondition_eq_ok_iff.mp (decodeCondition_of_decodeRecordWith d.decoded)

/-- Settles O10: the rows are read off the table; the decoder inverts `Condition.code`, which never is 15, and a descriptor's
condition came out of the decoder. -/
theorem conditionTableRows : Obligations.ConditionTableRows := by
  refine ⟨rfl, rfl, rfl, rfl, rfl, rfl, rfl, rfl, rfl, rfl, rfl, rfl, rfl, rfl, rfl, decodeCondition_reserved,
    fun _ _ => decodeCondition_eq_ok_iff, fun _ _ d _ => ⟨decodedDescriptor_cond_code d, ?_⟩⟩
  rw [← decodedDescriptor_cond_code d]
  exact code_ne_reserved d.cond

end Sys2Proof.Proofs
end

section
/-! SUPPORT. The Format Classifier as a search of its rule list, for any rule list: the walk answers the format of the first
rule that hits. With it the statement R76 of `43_format_classifier.md`. -/

namespace Sys2Proof.Proofs

open Sys2Proof.Laws

variable {raw : Word}

/-- A rule hits when the masked word is its pattern (R76). -/
theorem hit_eq_true_iff {r : Rule} : r.hit raw = true ↔ raw &&& r.mask = r.pattern := beq_iff_eq

/-- The walk over a rule list searches for the first hit and answers its format (R76). -/
theorem classifyWith_eq_map_find? (rules : List Rule) :
    classifyWith rules raw = (rules.find? (·.hit raw)).map Rule.format := by
  induction rules with
  | nil => rfl
  | cons r rs ih =>
    cases h : r.hit raw with
    | true => simp only [classifyWith, List.find?_cons, h, if_true, Option.map_some]
    | false => simp only [classifyWith, List.find?_cons, h, Bool.false_eq_true, if_false, ih]

/-- The search finds a rule exactly when it hits at some index and no lower index holds a rule that hits. -/
theorem find?_hit_eq_some_iff {rules : List Rule} {r : Rule} :
    rules.find? (·.hit raw) = some r ↔
      ∃ k : Nat, rules[k]? = some r ∧ raw &&& r.mask = r.pattern ∧
        ∀ (j : Nat) (q : Rule), j < k → rules[j]? = some q → raw &&& q.mask ≠ q.pattern := by
  simp only [List.find?_eq_some_iff_getElem, hit_eq_true_iff, Bool.not_eq_true', ← Bool.not_eq_true]
  constructor
  · rintro ⟨hr, k, hk, rfl, hbefore⟩
    refine ⟨k, List.getElem?_eq_getElem hk, hr, fun j q hj hq => ?_⟩
    obtain ⟨_, rfl⟩ := List.getElem?_eq_some_iff.mp hq
    exact hbefore j hj
  · rintro ⟨k, hkr, hr, hbefore⟩
    obtain ⟨hk, hget⟩ := List.getElem?_eq_some_iff.mp hkr
    exact ⟨hr, k, hk, hget, fun j hj => hbefore j _ hj (List.getElem?_eq_getElem (hj.trans hk))⟩

/-- The walk answers a format exactly when the rule of some index has it and matches, and no earlier rule matches (R76). -/
theorem classifyWith_eq_some_iff {rules : List Rule} {f : Format} :
    classifyWith rules raw = some f ↔
      ∃ (k : Nat) (r : Rule), rules[k]? = some r ∧ r.format = f ∧ raw &&& r.mask = r.pattern ∧
        ∀ (j : Nat) (q : Rule), j < k → rules[j]? = some q → raw &&& q.mask ≠ q.pattern := by
  simp only [classifyWith_eq_map_find?, Option.map_eq_some_iff, find?_hit_eq_some_iff]
  constructor
  · rintro ⟨r, ⟨k, hkr, hr, hbefore⟩, hf⟩
    exact ⟨k, r, hkr, hf, hr, hbefore⟩
  · rintro ⟨k, r, hkr, hf, hr, hbefore⟩
    exact ⟨r, ⟨k, hkr, hr, hbefore⟩, hf⟩

/-- Over any rule list, a word with a valid condition and no format is answered by the error that carries it (R142). -/
theorem decodeRecordWith_noFormat {rules : List Rule} (hc : slice raw 28 4 ≠ 15#4) (hf : classifyWith rules raw = none)
    (addr : Word) : decodeRecordWith rules raw addr = .error (.unknownInstructionFormat raw) := by
  obtain ⟨c, hcode⟩ := (code_cases (slice raw 28 4)).resolve_right hc
  simp only [decodeRecordWith, hcode, decodeCondition_code, hf]

/-- Settles O11: the walk is a search for the first hit, empty when no rule hits, and then a valid condition leaves `decode`
only the error. -/
theorem classifierTakesFirstMatch : Obligations.ClassifierTakesFirstMatch := by
  intro rules raw
  refine ⟨fun _ => classifyWith_eq_some_iff, ?_, fun addr hc hf => decodeRecordWith_noFormat hc hf addr⟩
  simp only [classifyWith_eq_none_iff, hit_eq_true_iff, ne_eq]

end Sys2Proof.Proofs
end

section
/-! SUPPORT. The Field Extractors that are more than a bit: the register indices, the branch displacement and the register
list, and the statements R100 to R102, R104 and R112 of `45_field_extractors.md`. -/

namespace Sys2Proof.Proofs

open Sys2Proof.Machine Sys2Proof.Laws

/-- A slice as a number: the word divided by the power of its lowest bit, modulo that of its width (R62). -/
theorem slice_toNat (w : Word) (lo width : Nat) : (slice w lo width).toNat = w.toNat / 2 ^ lo % 2 ^ width := by
  rw [slice, BitVec.extractLsb'_toNat, Nat.shiftRight_eq_div_pow]

/-- The displacement is computed without overflow: four times the signed field plus 8 fits 32 bits (R104). -/
theorem branchOffset_toInt (raw : Word) : (branchOffset raw).toInt = (slice raw 0 24).toInt * 4 + 8 := by
  have hlow : -(2 ^ 23) ≤ (slice raw 0 24).toInt := BitVec.le_toInt _
  have hhigh : (slice raw 0 24).toInt < 2 ^ 23 := BitVec.toInt_lt
  have hfour : (4#32).toInt = 4 := by decide
  have height : (8#32).toInt = 8 := by decide
  rw [branchOffset, BitVec.toInt_add, BitVec.toInt_mul, Int.bmod_add_bmod, sext24_toInt, hfour, height]
  exact Int.bmod_eq_of_le (by omega) (by omega)

/-- Settles O9: the field's signed value and range (R64) go through the exact product and sum; the extractor reads nothing
but the field. -/
theorem branchDisplacement : Obligations.BranchDisplacement := by
  intro raw
  obtain ⟨-, hfield, -, hlow, hhigh⟩ := signExtensionOfTwentyFourBits (slice raw 0 24)
  have hbit : (slice raw 0 24).getLsbD 23 = bit raw 23 := by rw [slice_getLsbD]; rfl
  have hvalue := branchOffset_toInt raw
  rw [sext24_toInt] at hfield hlow hhigh
  rw [hbit] at hfield
  exact ⟨by rw [hvalue, hfield], by omega, by omega, by omega, fun raw' hsame => by simp only [branchOffset, hsame]⟩

/-- The general position of the base register, of every format but the three the source lists by name (R100). -/
theorem rn_eq_general {f : Format} (raw : Word) (hmul : f ≠ .multiply) (hlong : f ≠ .multiplyLong)
    (hbx : f ≠ .branchExchange) : rn f raw = slice raw 16 4 := by
  cases f with
  | multiply => exact absurd rfl hmul
  | multiplyLong => exact absurd rfl hlong
  | branchExchange => exact absurd rfl hbx
  | _ => rfl

/-- The general position of the destination register, of every format but Multiply (R101). -/
theorem rd_eq_general {f : Format} (raw : Word) (hmul : f ≠ .multiply) : rd f raw = slice raw 12 4 := by
  cases f with
  | multiply => exact absurd rfl hmul
  | _ => rfl

/-- The register of the shared register form is the operand register: the low four bits of the sub-field are those of the
word (R102). -/
theorem rm_of_shiftedRegister {raw : Word} {m : Reg} {sh : ShiftDescriptor}
    (h : shiftedRegister (slice raw 0 12) = .shiftedRegister m sh) : m = rm raw := by
  obtain ⟨rfl, -⟩ := OperandValue.shiftedRegister.inj h
  refine BitVec.eq_of_getLsbD_eq fun k hk => ?_
  have hk12 : k < 12 := by omega
  simp only [BitVec.getLsbD_extractLsb', rm, slice_getLsbD, Nat.zero_add, hk12, decide_true, Bool.true_and]

/-- The register of a shifted-register second operand is the operand register (R94, R102). -/
theorem rm_of_operand2 {raw : Word} {m : Reg} {sh : ShiftDescriptor} (h : operand2 raw = .shiftedRegister m sh) :
    m = rm raw := by
  simp only [operand2] at h
  split at h
  · cases h
  · exact rm_of_shiftedRegister h

/-- The register of a shifted-register offset is the operand register, at either polarity of the selector (R95, R102). -/
theorem rm_of_offsetWith {p : Bool} {raw : Word} {m : Reg} {sh : ShiftDescriptor}
    (h : offsetWith p raw = .shiftedRegister m sh) : m = rm raw := by
  simp only [offsetWith] at h
  split at h
  · exact rm_of_shiftedRegister h
  · cases h

/-- Settles O27: each index is a slice of the word, its position chosen by the format; both operand forms take their
register from the low four bits. -/
theorem registerIndices : Obligations.RegisterIndices := by
  intro f raw
  have hlow : (rm raw).toNat = raw.toNat % 16 := by
    rw [rm, slice_toNat, Nat.pow_zero, Nat.div_one]
    rfl
  refine ⟨slice_toNat raw 12 4, slice_toNat raw 8 4, hlow, fun hmul hlong hbx => ?_, slice_toNat raw 16 4,
    fun hmul => ?_, hlow, rfl, fun m sh h => h.elim rm_of_operand2 rm_of_offsetWith⟩
  · rw [rn_eq_general raw hmul hlong hbx]
    exact slice_toNat raw 16 4
  · rw [rd_eq_general raw hmul]
    exact slice_toNat raw 12 4

/-- The members of a filtered list are as many as the sum of the predicate's values, each read as 0 or 1. -/
theorem length_filter_eq_sum_toNat {α : Type} (p : α → Bool) (l : List α) :
    (l.filter p).length = (l.map fun a => (p a).toNat).sum := by
  induction l with
  | nil => rfl
  | cons a l ih =>
    cases h : p a with
    | true => simp [h, ih, Nat.add_comm]
    | false => simp [h, ih]

/-- The list is strictly ascending: it is a part of `0 … 15` in its order, each index written in four bits (R112). -/
theorem registerList_pairwise_lt (raw : Word) : (registerList raw).Pairwise fun a b => a.toNat < b.toNat := by
  rw [registerList, List.pairwise_map]
  refine (List.pairwise_lt_range.filter _).imp_of_mem fun {a b} ha hb hlt => ?_
  have ha16 : a < 16 := List.mem_range.mp (List.mem_of_mem_filter ha)
  have hb16 : b < 16 := List.mem_range.mp (List.mem_of_mem_filter hb)
  rwa [BitVec.toNat_ofNat, BitVec.toNat_ofNat, Nat.mod_eq_of_lt ha16, Nat.mod_eq_of_lt hb16]

/-- The list holds exactly the indices of the set bits of the list field (R112). -/
theorem mem_registerList_iff {raw : Word} {k : Reg} : k ∈ registerList raw ↔ raw.getLsbD k.toNat = true := by
  simp only [registerList, List.mem_map, List.mem_filter, List.mem_range]
  constructor
  · rintro ⟨n, ⟨hn, hset⟩, rfl⟩
    rwa [BitVec.toNat_ofNat, Nat.mod_eq_of_lt hn]
  · intro hset
    exact ⟨k.toNat, ⟨k.isLt, hset⟩, by rw [BitVec.ofNat_toNat, BitVec.setWidth_eq]⟩

/-- The list is as long as the list field has set bits (R112). -/
theorem registerList_length (raw : Word) :
    (registerList raw).length = ((List.range 16).map fun k => (raw.getLsbD k).toNat).sum := by
  rw [registerList, List.length_map, length_filter_eq_sum_toNat]

/-- The list names at most the sixteen registers (R112). -/
theorem registerList_length_le (raw : Word) : (registerList raw).length ≤ 16 := by
  rw [registerList, List.length_map]
  exact (List.length_filter_le _ _).trans_eq List.length_range

/-- Settles O31: order and membership come through the map of `0 … 15` onto the register indices, the length through the
filter. -/
theorem registerListIsAscending : Obligations.RegisterListIsAscending := fun raw =>
  ⟨registerList_pairwise_lt raw, fun _ => mem_registerList_iff, registerList_length raw, registerList_length_le raw⟩

end Sys2Proof.Proofs
end

section
/-! SUPPORT. Selection by the literal rule table, format by format: two rules that disagree on a bit both test share no word
(R80), so the region of a format is the test of its rule less the earlier rules that overlap it (R81). -/

namespace Sys2Proof.Proofs

open Sys2Proof.Laws

/-- The rule of a format in the literal table: a format's tag is the number of its rule (R77, D4). -/
def formatRule (f : Format) : Rule := Config.classifierRules.getD (f.tag.toNat - 1) default

/-- The rules of two formats demand different values of a bit that both test. -/
def rulesClash (g f : Format) : Bool :=
  (formatRule g).pattern &&& (formatRule f).mask != (formatRule f).pattern &&& (formatRule g).mask

/-- The formats of the earlier rules that overlap a format's rule: the pairs of R80's table that end in it. -/
def earlierOverlaps (f : Format) : List Format :=
  (Config.classifierRules.map Rule.format).filter fun g => g.tag.toNat < f.tag.toNat && !rulesClash g f

variable {raw : Word}

/-- The rule of a format matches exactly the words that pass the format's test (R78). -/
theorem hit_formatRule (f : Format) : (formatRule f).hit raw = true ↔ fits f raw := by
  cases f with
  | branchExchange => exact hit_branchExchange raw
  | branchLink => exact hit_branchLink raw
  | multiply => exact hit_multiply raw
  | multiplyLong => exact hit_multiplyLong raw
  | singleDataTransfer => exact hit_singleDataTransfer raw
  | halfwordSignedTransferReg => exact hit_halfwordSignedTransferReg raw
  | halfwordSignedTransferImm => exact hit_halfwordSignedTransferImm raw
  | blockDataTransfer => exact hit_blockDataTransfer raw
  | singleDataSwap => exact hit_singleDataSwap raw
  | moveFromPsr => exact hit_moveFromPsr raw
  | moveToPsrReg => exact hit_moveToPsrReg raw
  | moveToPsrFlags => exact hit_moveToPsrFlags raw
  | dataProcessing => exact hit_dataProcessing raw

/-- Rules with a word in common do not clash: the word shows each pattern on the bits that both test (R80). -/
theorem rulesClash_eq_false {g f : Format} (hg : fits g raw) (hf : fits f raw) : rulesClash g f = false := by
  rw [← hit_formatRule, hit_eq_true_iff] at hg hf
  have hagree : (formatRule g).pattern &&& (formatRule f).mask = (formatRule f).pattern &&& (formatRule g).mask := by
    rw [← hg, ← hf, BitVec.and_assoc, BitVec.and_assoc, BitVec.and_comm (formatRule g).mask]
  rw [rulesClash, hagree, bne_self_eq_false]

/-- Every format has a rule in the literal table (R77). -/
theorem mem_classifierRules_formats (g : Format) : g ∈ Config.classifierRules.map Rule.format := by
  cases g <;> decide

/-- An earlier format whose test a word of `f` passes as well is one of the earlier overlaps of `f`. -/
theorem mem_earlierOverlaps {g f : Format} (hearlier : g.tag.toNat < f.tag.toNat) (hg : fits g raw) (hf : fits f raw) :
    g ∈ earlierOverlaps f := by
  simp only [earlierOverlaps, List.mem_filter, mem_classifierRules_formats, hearlier, rulesClash_eq_false hg hf,
    decide_true, Bool.not_false, Bool.and_self, and_self]

/-- A format is selected exactly when a word passes its test and that of no earlier format that overlaps it (R76, R80). -/
theorem classify_iff_of_earlierOverlaps (f : Format) :
    classify raw = some f ↔ fits f raw ∧ ∀ g ∈ earlierOverlaps f, ¬ fits g raw := by
  rw [classify_eq_some_iff]
  constructor
  · rintro ⟨hmiss, hf⟩
    refine ⟨hf, fun g hg => hmiss g ?_⟩
    have hcond := (List.mem_filter.mp hg).2
    rw [Bool.and_eq_true, decide_eq_true_iff] at hcond
    exact hcond.1
  · rintro ⟨hf, hmiss⟩
    exact ⟨fun g hearlier hg => hmiss g (mem_earlierOverlaps hearlier hg hf) hg, hf⟩

/-- A format whose rule no earlier rule overlaps is selected exactly on its test. -/
theorem classify_iff_fits {f : Format} (hnone : earlierOverlaps f = []) : classify raw = some f ↔ fits f raw := by
  simp only [classify_iff_of_earlierOverlaps, hnone, List.not_mem_nil, false_implies, implies_true, and_true]

/-- Of the words with the shape of a register-offset halfword transfer, the multiplies take those with `raw[24]` and
`raw[6:5]` clear; the two multiply rules differ in `raw[23]`, which the halfword rule does not test (R81 row 6). -/
theorem fitsMultiply_or_long_iff_of_halfwordReg (h : fitsHalfwordReg raw) :
    fitsMultiply raw ∨ fitsMultiplyLong raw ↔ bit raw 24 = false ∧ slice raw 5 2 = 0b00#2 := by
  simp only [fitsHalfwordReg, fitsMultiply, fitsMultiplyLong, bit_eq, bv_eq_iff, forall_lt_succ_iff, forall_lt_zero_iff,
    slice_getLsbD] at h ⊢
  simp at h ⊢
  cases raw[23] <;> simp [h]

/-- The region of the register-offset halfword transfers (R81 row 6): their rule's test less the two multiplies. -/
theorem classify_halfwordReg_iff : classify raw = some .halfwordSignedTransferReg ↔
    fitsHalfwordReg raw ∧ ¬ (bit raw 24 = false ∧ slice raw 5 2 = 0b00#2) := by
  have hearlier : earlierOverlaps .halfwordSignedTransferReg = [.multiply, .multiplyLong] := by decide
  rw [classify_iff_of_earlierOverlaps, hearlier, List.forall_mem_cons, List.forall_mem_singleton]
  refine and_congr_right fun h => ?_
  rw [← fitsMultiply_or_long_iff_of_halfwordReg h, not_or]
  rfl

end Sys2Proof.Proofs
end

section
/-! SUPPORT. The operands of an instruction read back from its own word, and the statements R120 to R123, R125, R127 and R130
of `46_formats.md`. -/

namespace Sys2Proof.Proofs

open Sys2Proof.Machine Sys2Proof.Laws

/-- The free bits of an instruction's word are the instruction's operands: what the round trip says when the condition and
the format are known, field by field after `inj`. -/
theorem decodeFormat_encode {i : Instr} {c : Condition} {f : Format}
    (hword : slice (encode i) 28 4 = c.code ∧ classify (encode i) = some f) (hround : RoundTrip.Statement i)
    (hwf : i.WellFormed) : decodeFormat f c (encode i) = i.refined := by
  rw [← decodeWord_of hword.1 hword.2]
  exact hround hwf

/-- A slice of a word is read off any known slice that contains it. -/
theorem slice_of_slice {w : Word} {lo width start len : Nat} {v : BitVec width} (hv : slice w lo width = v)
    (h : start + len ≤ width) : slice w (lo + start) len = v.extractLsb' start len := by
  refine BitVec.eq_of_getLsbD_eq fun k hk => ?_
  have hinside : start + k < width := by omega
  rw [← hv, BitVec.getLsbD_extractLsb', slice_getLsbD, slice_getLsbD, decide_eq_true hinside, Bool.true_and,
    Nat.add_assoc]

/-- Settles O32: no earlier rule stands before rule 1; the one register read back is both outputs. -/
theorem branchExchangeOutputs : Obligations.BranchExchangeOutputs := by
  refine ⟨fun raw => classify_iff_fits (by decide), fun c r s => ?_⟩
  have hword := encode_branchExchange c r
  obtain ⟨y, hexec, hy⟩ := exec_of hword s
  obtain ⟨-, hr⟩ := Instr.branchExchange.inj (decodeFormat_encode hword (RoundTrip.branchExchange c r) rfl)
  exact ⟨y, _, hexec, hy, hr, hr⟩

/-- The displacement as a number, by the sign bit of the field it is formed from (R64, R104). -/
theorem branchOffset_toInt_of_field {raw : Word} {field : BitVec 24} (hfield : slice raw 0 24 = field) :
    (branchOffset raw).toInt =
      (if field.getLsbD 23 then (field.toNat : Int) - 2 ^ 24 else (field.toNat : Int)) * 4 + 8 := by
  obtain ⟨-, hvalue, -⟩ := signExtensionOfTwentyFourBits field
  rw [branchOffset_toInt, hfield, ← sext24_toInt, hvalue]

/-- Settles O33: the word's link bit and field are the operands; B and BL have the word of the format row. -/
theorem branchOutputs : Obligations.BranchOutputs := by
  refine ⟨fun raw => classify_iff_fits (by decide), fun c link field s => ?_, fun c field s => ?_⟩
  · obtain ⟨y, hexec, hy⟩ :=
      exec_of (i := .branchLink c link field) ⟨cond_encodeBranch c link field, classify_encodeBranch c link field⟩ s
    obtain ⟨hlink, hfield⟩ := fields_encodeBranch c link field
    exact ⟨y, _, hexec, hy, hlink, branchOffset_toInt_of_field hfield⟩
  · simp only [exec_eq_decode, encode, and_self]

/-- Settles O34: no earlier rule overlaps rule 3; Multiply's own positions of `rd` and `rn` hold the operands. -/
theorem multiplyOutputs : Obligations.MultiplyOutputs := by
  refine ⟨fun raw => classify_iff_fits (by decide), fun c w f d n rs m s => ?_⟩
  have hword := encode_multiply c w f d n rs m
  obtain ⟨y, hexec, hy⟩ := exec_of hword s
  obtain ⟨-, hw, hf, hd, hn, -, hm⟩ :=
    Instr.multiply.inj (decodeFormat_encode hword (RoundTrip.multiply c w f d n rs m) rfl)
  exact ⟨y, _, hexec, hy, hd, hn, hm, hw, hf⟩

/-- Settles O35: no earlier rule overlaps rule 4; the position of `rn` is MultiplyLong's own. -/
theorem multiplyLongOutputs : Obligations.MultiplyLongOutputs := by
  refine ⟨fun raw => classify_iff_fits (by decide), fun c u w f hi d n m s => ?_⟩
  have hword := encode_multiplyLong c u w f hi d n m
  obtain ⟨y, hexec, hy⟩ := exec_of hword s
  obtain ⟨-, hu, hw, hf, -, hd, hn, hm⟩ :=
    Instr.multiplyLong.inj (decodeFormat_encode hword (RoundTrip.multiplyLong c u w f hi d n m) rfl)
  exact ⟨y, _, hexec, hy, hn, hd, hm, hu, hw, hf⟩

/-- The operands R125 selects are the well-formed ones. -/
theorem wellFormed_halfwordReg_iff {p : Bool} {sh : BitVec 2} :
    WellFormed.halfwordReg p sh = true ↔ ¬ (p = false ∧ sh = 0b00#2) := by
  simp only [WellFormed.halfwordReg, Bool.not_eq_true', Bool.and_eq_false_iff, Bool.not_eq_false', beq_eq_false_iff_ne,
    not_and_or, Bool.not_eq_false, ne_eq]

/-- Settles O37: the multiplies are the only earlier rules in the way, of the words and so of the operands. -/
theorem halfwordRegisterOutputs : Obligations.HalfwordRegisterOutputs := by
  refine ⟨fun raw => ?_, fun c p u w l n d sh m s hsel => ?_⟩
  · simp only [classify_halfwordReg_iff, fitsHalfwordReg, and_assoc]
  · have hwf := wellFormed_halfwordReg_iff.mpr hsel
    have hword := encode_halfwordSignedTransferReg c p u w l n d sh m hwf
    obtain ⟨y, hexec, hy⟩ := exec_of hword s
    obtain ⟨-, hp, hu, hw, hl, hn, hd, -, hm⟩ := Instr.halfwordSignedTransferReg.inj
      (decodeFormat_encode hword (RoundTrip.halfwordSignedTransferReg c p u w l n d sh m) hwf)
    exact ⟨y, _, hexec, hy, hn, hd, hm, hp, hu, hw, hl⟩

/-- The list holds exactly the indices of the bits set in its sixteen-bit field (R112). -/
theorem mem_registerList_iff_field {raw : Word} {list : BitVec 16} (hlist : slice raw 0 16 = list) (k : Reg) :
    k ∈ registerList raw ↔ list.getLsbD k.toNat = true := by
  have hk : k.toNat < 16 := k.isLt
  rw [mem_registerList_iff, ← hlist, slice_getLsbD, Nat.zero_add, decide_eq_true hk, Bool.true_and]

/-- The list is empty exactly when its field is 0 (R127). -/
theorem registerList_eq_nil_iff_field {raw : Word} {list : BitVec 16} (hlist : slice raw 0 16 = list) :
    registerList raw = [] ↔ list = 0#16 := by
  simp only [List.eq_nil_iff_forall_not_mem, mem_registerList_iff_field hlist, Bool.not_eq_true]
  constructor
  · intro hclear
    refine BitVec.eq_of_getLsbD_eq fun k hk => ?_
    rw [BitVec.getLsbD_zero, ← hclear (BitVec.ofNatLT k hk), BitVec.toNat_ofNatLT]
  · rintro rfl k
    exact BitVec.getLsbD_zero

/-- Settles O39: no earlier rule overlaps rule 8; the list output is that of the list operand, whose top four bits are `rd`. -/
theorem blockDataTransferOutputs : Obligations.BlockDataTransferOutputs := by
  refine ⟨fun raw => classify_iff_fits (by decide), fun c p u z w l n list s => ?_⟩
  have hword := encode_blockDataTransfer c p u z w l n list
  obtain ⟨y, hexec, hy⟩ := exec_of hword s
  obtain ⟨-, hp, hu, hz, hw, hl, hn, hlist⟩ :=
    Instr.blockDataTransfer.inj (decodeFormat_encode hword (RoundTrip.blockDataTransfer c p u z w l n list) rfl)
  have hd : slice (encode (.blockDataTransfer c p u z w l n list)) 12 4 = list.extractLsb' 12 4 :=
    slice_of_slice (start := 12) hlist (by decide)
  exact ⟨y, _, hexec, hy, hn, hd, registerList_pairwise_lt _, mem_registerList_iff_field hlist,
    registerList_eq_nil_iff_field hlist, hp, hu, hz, hw, hl⟩

/-- Settles O42: no earlier rule overlaps rule 11; `rn` and `rd` read bits that the rule fixes. -/
theorem moveToPsrRegisterOutputs : Obligations.MoveToPsrRegisterOutputs := by
  have hselect : ∀ raw : Word, classify raw = some .moveToPsrReg ↔
      slice raw 23 5 = 0b00010#5 ∧ slice raw 4 18 = 0x29F00#18 := fun raw => classify_iff_fits (by decide)
  refine ⟨hselect, fun c z m s => ?_⟩
  have hword := encode_moveToPsrReg c z m
  obtain ⟨y, hexec, hy⟩ := exec_of hword s
  obtain ⟨-, hz, hm⟩ := Instr.moveToPsrReg.inj (decodeFormat_encode hword (RoundTrip.moveToPsrReg c z m) rfl)
  obtain ⟨-, hfixed⟩ := (hselect _).mp hword.2
  have hn : slice (encode (.moveToPsrReg c z m)) 16 4 = 9#4 :=
    slice_of_slice (start := 12) hfixed (by decide)
  have hd : slice (encode (.moveToPsrReg c z m)) 12 4 = 15#4 :=
    slice_of_slice (start := 8) hfixed (by decide)
  exact ⟨y, _, hexec, hy, hm, hz, hn, hd⟩

end Sys2Proof.Proofs
end

section
/-! SUPPORT. The descriptor that `decode` returns on a word whose condition and format are known, and the statement R144 of
`60_exceptions.md`. -/

namespace Sys2Proof.Proofs

open Sys2Proof.Laws

/-- A word with a condition and a format is answered by a descriptor, whose record is those two with the inputs (R52). -/
theorem blockDecode_of {raw : Word} {c : Condition} {f : Format} (hc : slice raw 28 4 = c.code)
    (hf : classify raw = some f) (addr : Word) :
    ∃ d : DecodedDescriptor, blockDecode raw addr = .ok d ∧ d.toDescriptor = ⟨c, f, raw, addr⟩ :=
  have hrecord := decodeRecord_of hc hf addr
  ⟨⟨⟨c, f, raw, addr⟩, hrecord⟩, blockDecode_eq_ok_iff.mpr hrecord, rfl⟩

/-- Settles O17: code 15 stops the record before the format is looked at; every other code is a condition's, and then the
classifier's answer decides between the error and the descriptor. -/
theorem decodePriority : Obligations.DecodePriority := by
  intro raw addr
  refine ⟨fun hreserved => blockDecode_eq_err_iff.mpr (decodeRecord_reserved hreserved addr),
    fun hc hnone => blockDecode_eq_err_iff.mpr (decodeRecordWith_noFormat hc hnone addr), fun f hc hf => ?_⟩
  obtain ⟨c, hcode⟩ := (code_cases (slice raw 28 4)).resolve_right hc
  obtain ⟨⟨d, _⟩, hok, rfl⟩ := blockDecode_of hcode hf addr
  exact ⟨_, hok, hcode.symm, rfl, rfl, rfl⟩

end Sys2Proof.Proofs
end

section
/-! SUPPORT. The first-match regions of the formats whose rule an earlier rule overlaps, the words no rule matches, the swap
words under both rule orders, and what the classifier does not read: the statements of `43_format_classifier.md`. -/

namespace Sys2Proof.Proofs

open Sys2Proof.Machine Sys2Proof.Laws

variable {raw : Word}

/-- Of the words with the shape of an immediate-offset halfword transfer, MultiplyLong takes those with `raw[24:23] == 01`
and `raw[6:5] == 00` (R81 row 7). -/
theorem fitsMultiplyLong_iff_of_halfwordImm (h : fitsHalfwordImm raw) :
    fitsMultiplyLong raw ↔ slice raw 23 2 = 0b01#2 ∧ slice raw 5 2 = 0b00#2 := by
  simp only [fitsHalfwordImm, fitsMultiplyLong, bit_eq, bv_eq_iff, forall_lt_succ_iff, forall_lt_zero_iff,
    slice_getLsbD] at h ⊢
  simp at h ⊢
  simp [h]

/-- The region of the immediate-offset halfword transfers (R81 row 7): their rule's test less MultiplyLong. -/
theorem classify_halfwordImm_iff : classify raw = some .halfwordSignedTransferImm ↔
    fitsHalfwordImm raw ∧ ¬ (slice raw 23 2 = 0b01#2 ∧ slice raw 5 2 = 0b00#2) := by
  have hearlier : earlierOverlaps .halfwordSignedTransferImm = [.multiplyLong] := by decide
  rw [classify_iff_of_earlierOverlaps, hearlier, List.forall_mem_singleton]
  exact and_congr_right fun h => not_congr (fitsMultiplyLong_iff_of_halfwordImm h)

/-- Of the words with the shape of a flags move, the halfword transfers take the register forms with `raw[7]` and `raw[4]`
set: the immediate form when `raw[22]` is set, the register form when it is clear and `raw[11:8]` is 0 (R81 row 12). -/
theorem fitsHalfword_iff_of_psrFlags (h : fitsMoveToPsrFlags raw) :
    fitsHalfwordReg raw ∨ fitsHalfwordImm raw ↔
      bit raw 25 = false ∧ bit raw 7 = true ∧ bit raw 4 = true ∧ (bit raw 22 = true ∨ slice raw 8 4 = 0#4) := by
  have hspace : slice raw 25 3 = 0b000#3 ↔ bit raw 25 = false := by
    simp only [fitsMoveToPsrFlags, bit_eq, bv_eq_iff, forall_lt_succ_iff, forall_lt_zero_iff, slice_getLsbD] at h ⊢
    simp at h ⊢
    simp [h]
  rw [fitsHalfwordReg, fitsHalfwordImm, hspace]
  cases bit raw 22 with
  | true => simp
  | false => simp; tauto

/-- The region of the flags moves (R81 row 12): their rule's test less the two halfword transfers. -/
theorem classify_psrFlags_iff : classify raw = some .moveToPsrFlags ↔ fitsMoveToPsrFlags raw ∧
    ¬ (bit raw 25 = false ∧ bit raw 7 = true ∧ bit raw 4 = true ∧ (bit raw 22 = true ∨ slice raw 8 4 = 0#4)) := by
  have hearlier : earlierOverlaps .moveToPsrFlags = [.halfwordSignedTransferReg, .halfwordSignedTransferImm] := by decide
  rw [classify_iff_of_earlierOverlaps, hearlier, List.forall_mem_cons, List.forall_mem_singleton]
  refine and_congr_right fun h => ?_
  rw [← fitsHalfword_iff_of_psrFlags h, not_or]
  rfl

/-- A word of a swap's shape has that of a halfword transfer too, of the form that `raw[22]` says (R82). -/
theorem fitsHalfword_of_swap (h : fitsSwap raw) :
    if bit raw 22 then fitsHalfwordImm raw else fitsHalfwordReg raw := by
  simp only [fitsSwap, fitsHalfwordReg, fitsHalfwordImm, bit_eq, bv_eq_iff, forall_lt_succ_iff, forall_lt_zero_iff,
    slice_getLsbD] at h ⊢
  simp at h ⊢
  cases hbit : raw[22] <;> simp [h]

/-- The same, without saying which form. -/
theorem fitsHalfword_or_of_swap (h : fitsSwap raw) : fitsHalfwordReg raw ∨ fitsHalfwordImm raw := by
  have hform := fitsHalfword_of_swap h
  split at hform
  · exact .inr hform
  · exact .inl hform

/-- No word is classified Single Data Swap (R82). -/
theorem classify_ne_swap : classify raw ≠ some .singleDataSwap := by
  rw [ne_eq, classify_iff_of_earlierOverlaps]
  rintro ⟨hswap, hmiss⟩
  rcases fitsHalfword_or_of_swap hswap with h | h
  · exact hmiss .halfwordSignedTransferReg (by decide) h
  · exact hmiss .halfwordSignedTransferImm (by decide) h

/-- The region of data processing (R81 row 13): of the earlier rules that overlap its own, the swap's is in the halfword
transfers'. -/
theorem classify_dataProcessing_iff : classify raw = some .dataProcessing ↔ region .dataProcessing raw := by
  have hearlier : earlierOverlaps .dataProcessing = [.branchExchange, .multiply, .multiplyLong, .halfwordSignedTransferReg,
    .halfwordSignedTransferImm, .singleDataSwap, .moveFromPsr, .moveToPsrReg, .moveToPsrFlags] := by decide
  have hswap : ¬ fitsHalfwordReg raw → ¬ fitsHalfwordImm raw → ¬ fitsSwap raw := fun hreg himm h =>
    (fitsHalfword_or_of_swap h).elim hreg himm
  rw [classify_iff_of_earlierOverlaps, hearlier]
  simp only [List.forall_mem_cons, List.not_mem_nil, false_implies, implies_true, and_true, fits, region]
  tauto

/-- The first-match regions, format by format (R81). -/
theorem classify_iff_region (f : Format) : classify raw = some f ↔ region f raw := by
  cases f with
  | branchExchange | branchLink | multiply | multiplyLong | singleDataTransfer | blockDataTransfer | moveFromPsr
  | moveToPsrReg => exact classify_iff_fits (by decide)
  | halfwordSignedTransferReg =>
    rw [classify_halfwordReg_iff, and_comm (a := bit raw 24 = false)]
    simp only [fitsHalfwordReg, and_assoc, region]
  | halfwordSignedTransferImm =>
    rw [classify_halfwordImm_iff, and_comm (a := slice raw 23 2 = 0b01#2)]
    simp only [fitsHalfwordImm, and_assoc, region]
  | singleDataSwap => exact iff_of_false classify_ne_swap id
  | moveToPsrFlags => rw [classify_psrFlags_iff]; simp only [fitsMoveToPsrFlags, and_assoc, region]
  | dataProcessing => exact classify_dataProcessing_iff

/-- Bits that a rule's mask all tests show the rule's pattern in every word that passes (R78). -/
theorem slice_of_fits {f : Format} {lo n : Nat} (hmask : slice (formatRule f).mask lo n = BitVec.allOnes n)
    (h : fits f raw) : slice raw lo n = slice (formatRule f).pattern lo n := by
  rw [← hit_formatRule, hit_eq_true_iff] at h
  have hand : slice (raw &&& (formatRule f).mask) lo n = slice raw lo n &&& slice (formatRule f).mask lo n := by
    simp only [slice, BitVec.extractLsb'_and]
  rw [← h, hand, hmask, BitVec.and_allOnes]

/-- Every rule tests `raw[27:26]` and asks for a value that is not 11, so no format's test has a word there (R84). -/
theorem space_of_fits {f : Format} (h : fits f raw) : slice raw 26 2 ≠ 0b11#2 := by
  have hspace : slice (formatRule f).mask 26 2 = BitVec.allOnes 2 ∧ slice (formatRule f).pattern 26 2 ≠ 0b11#2 := by
    cases f <;> decide
  rw [slice_of_fits hspace.1 h]
  exact hspace.2

/-- Each value of `raw[27:26]` but 11 has its general rule, the value 10 one for each value of `raw[25]` (R84). -/
theorem exists_fits_of_space (h : slice raw 26 2 ≠ 0b11#2) : ∃ f, fits f raw := by
  have hcases : ∀ x : BitVec 2, x ≠ 0b11#2 → x = 0b00#2 ∨ x = 0b01#2 ∨ x = 0b10#2 := by decide
  rcases hcases _ h with h | h | h
  · exact ⟨.dataProcessing, h⟩
  · exact ⟨.singleDataTransfer, h⟩
  · have hbranch : bit raw 25 = true → fits .branchLink raw := by
      simp only [fits, bit_eq, bv_eq_iff, forall_lt_succ_iff, forall_lt_zero_iff, slice_getLsbD] at h ⊢
      simp at h ⊢
      simp [h]
    have hblock : bit raw 25 = false → fits .blockDataTransfer raw := by
      simp only [fits, bit_eq, bv_eq_iff, forall_lt_succ_iff, forall_lt_zero_iff, slice_getLsbD] at h ⊢
      simp at h ⊢
      simp [h]
    cases hbit : bit raw 25 with
    | true => exact ⟨_, hbranch hbit⟩
    | false => exact ⟨_, hblock hbit⟩

/-- The literal table is the rules of the formats in the order of their tags (R77). -/
theorem classifierRules_eq_map : Config.classifierRules = (Config.classifierRules.map Rule.format).map formatRule := by
  decide

/-- No rule matches exactly when no format's test passes. -/
theorem classify_eq_none_iff_fits : classify raw = none ↔ ∀ f, ¬ fits f raw := by
  rw [classify, classifyWith_eq_none_iff, classifierRules_eq_map]
  simp only [List.forall_mem_map (l := Config.classifierRules.map Rule.format), hit_formatRule]
  exact ⟨fun h f => h f (mem_classifierRules_formats f), fun h f _ => h f⟩

/-- The words without a format (R84). -/
theorem classify_eq_none_iff : classify raw = none ↔ slice raw 26 2 = 0b11#2 := by
  rw [classify_eq_none_iff_fits, ← not_exists]
  constructor
  · intro h
    by_contra hspace
    exact h (exists_fits_of_space hspace)
  · rintro h ⟨f, hf⟩
    exact space_of_fits hf h

/-- A word with a format is outside the space without one (R84). -/
theorem space_of_classify {f : Format} (h : classify raw = some f) : slice raw 26 2 ≠ 0b11#2 := by
  rw [ne_eq, ← classify_eq_none_iff, h]
  exact Option.some_ne_none f

/-- Settles O12: the regions come format by format from the earlier overlaps, the rest from the two bits every rule tests. -/
theorem firstMatchRegions : Obligations.FirstMatchRegions := fun _ =>
  ⟨classify_iff_region, classify_eq_none_iff⟩

/-- The bits a swap's shape fixes (R78 row 9), read as the flags of R128. -/
theorem flags_of_swap (h : fitsSwap raw) : preIndexFlag raw = true ∧ addOffsetFlag raw = false ∧
    writeBackFlag raw = false ∧ loadFlag raw = false ∧ slice raw 5 2 = 0b00#2 ∧ slice raw 8 4 = 0#4 := by
  simp only [fitsSwap, preIndexFlag, addOffsetFlag, writeBackFlag, loadFlag, bit_eq, bv_eq_iff, forall_lt_succ_iff,
    forall_lt_zero_iff, slice_getLsbD] at h ⊢
  simp at h ⊢
  simp [h]

/-- A swap word with `raw[22]` clear is a register halfword transfer: `raw[24]` is set, so no multiply takes it (R82). -/
theorem classify_of_swap_reg (h : fitsSwap raw) (hbit : bit raw 22 = false) :
    classify raw = some .halfwordSignedTransferReg := by
  obtain ⟨hpre, -⟩ := flags_of_swap h
  have hform := fitsHalfword_of_swap h
  rw [hbit, if_neg Bool.false_ne_true] at hform
  refine classify_halfwordReg_iff.mpr ⟨hform, fun hmul => ?_⟩
  exact Bool.false_ne_true (hmul.1.symm.trans hpre)

/-- A swap word with `raw[22]` set is an immediate halfword transfer: `raw[23]` is clear, so MultiplyLong does not take it
(R82). -/
theorem classify_of_swap_imm (h : fitsSwap raw) (hbit : bit raw 22 = true) :
    classify raw = some .halfwordSignedTransferImm := by
  have hform := fitsHalfword_of_swap h
  rw [hbit, if_pos rfl] at hform
  refine classify_halfwordImm_iff.mpr ⟨hform, fun hlong => ?_⟩
  have hspace : slice raw 23 2 = 0b10#2 := slice_of_slice (start := 0) h.1 (by decide)
  rw [hspace] at hlong
  exact absurd hlong.1 (by decide)

/-- Settles O13: a swap's shape is a halfword transfer's, and its fixed bits keep the multiplies out. -/
theorem swapWordsAreHalfwordTransfers : Obligations.SwapWordsAreHalfwordTransfers := fun _ =>
  ⟨classify_ne_swap, classify_of_swap_reg, classify_of_swap_imm, flags_of_swap⟩

/-- A rule that does not hit can be left out of the walk. -/
theorem classifyWith_erase {r : Rule} (h : r.hit raw = false) (rules : List Rule) :
    classifyWith (rules.erase r) raw = classifyWith rules raw := by
  induction rules with
  | nil => rfl
  | cons q rs ih =>
    by_cases hq : q = r
    · subst hq
      simp only [List.erase_cons_head, classifyWith, h, Bool.false_eq_true, if_false]
    · have htail : (q :: rs).erase r = q :: rs.erase r := List.erase_cons_tail (mt beq_iff_eq.mp hq)
      simp only [htail, classifyWith, ih]

/-- Up to the place of the swap's rule the two orders are the same table, and without that rule they are the same (D13). -/
theorem repaired_erase_swap : Config.classifierRulesRepaired.erase (formatRule .singleDataSwap) =
    Config.classifierRules.erase (formatRule .singleDataSwap) := by decide

/-- In the repaired order no rule that stands before the swap's overlaps it, so a swap word is a swap (D13). -/
theorem classifyWith_repaired_of_swap (h : fitsSwap raw) :
    classifyWith Config.classifierRulesRepaired raw = some .singleDataSwap := by
  have hmiss : ∀ g : Format, rulesClash g .singleDataSwap = true → (formatRule g).hit raw = false := by
    intro g hclash
    rw [← Bool.not_eq_true, hit_formatRule]
    intro hg
    exact Bool.false_ne_true ((rulesClash_eq_false (f := .singleDataSwap) hg h).symm.trans hclash)
  have h1 := hmiss .branchExchange (by decide)
  have h2 := hmiss .branchLink (by decide)
  have h3 := hmiss .multiply (by decide)
  have h4 := hmiss .multiplyLong (by decide)
  have h5 := hmiss .singleDataTransfer (by decide)
  have h9 : (formatRule .singleDataSwap).hit raw = true := (hit_formatRule _).mpr h
  have hlist : ∃ rest, Config.classifierRulesRepaired = formatRule .branchExchange :: formatRule .branchLink ::
    formatRule .multiply :: formatRule .multiplyLong :: formatRule .singleDataTransfer ::
    formatRule .singleDataSwap :: rest := ⟨_, rfl⟩
  obtain ⟨rest, hlist⟩ := hlist
  rw [hlist]
  simp only [classifyWith, h1, h2, h3, h4, h5, h9, Bool.false_eq_true, if_false, if_true]
  rfl

/-- Settles O14: without the swap's rule both orders are one list, and only a swap word hits that rule. -/
theorem repairedOrderChangesExactlySwaps : Obligations.RepairedOrderChangesExactlySwaps := by
  refine fun raw => ⟨classifyWith_repaired_of_swap, fun hswap => ?_⟩
  have hmiss : (formatRule .singleDataSwap).hit raw = false := by
    rw [← Bool.not_eq_true, hit_formatRule]
    exact hswap
  rw [classify, ← classifyWith_erase hmiss Config.classifierRules, ← repaired_erase_swap, classifyWith_erase hmiss]

/-- Absorption: what a union adds from inside one part is in it already. -/
theorem or_and_self_left (x y : Word) : x ||| x &&& y = x := by
  refine BitVec.eq_of_getLsbD_eq fun k _ => ?_
  rw [BitVec.getLsbD_or, BitVec.getLsbD_and]
  cases x.getLsbD k <;> rfl

/-- Two masked comparisons, each with its pattern inside its mask, have a word in common exactly when the patterns agree on
the bits both masks test (R80): the union of the patterns is then such a word. -/
theorem exists_common_word_iff {m p m' p' : Word} (hp : p &&& m = p) (hp' : p' &&& m' = p') :
    (∃ raw : Word, raw &&& m = p ∧ raw &&& m' = p') ↔ p &&& m' = p' &&& m := by
  constructor
  · rintro ⟨raw, rfl, rfl⟩
    rw [BitVec.and_assoc, BitVec.and_assoc, BitVec.and_comm m]
  · intro h
    refine ⟨p ||| p', ?_, ?_⟩
    · rw [BitVec.and_or_distrib_right, hp, ← h, or_and_self_left]
    · rw [BitVec.and_or_distrib_right, hp', h, BitVec.or_comm, or_and_self_left]

/-- Every rule's pattern lies inside its mask (R75). -/
theorem pattern_and_mask {r : Rule} (h : r ∈ Config.classifierRules) : r.pattern &&& r.mask = r.pattern := by
  have hall : ∀ r ∈ Config.classifierRules, r.pattern &&& r.mask = r.pattern := by decide
  exact hall r h

/-- The pairs of rules that agree on the bits both test, computed from the table (R80). -/
theorem agreeing_pairs : ∀ j k : Fin Config.classifierRules.length, j < k →
    (Config.classifierRules[j].pattern &&& Config.classifierRules[k].mask =
        Config.classifierRules[k].pattern &&& Config.classifierRules[j].mask ↔
      (j.val + 1, k.val + 1) ∈ [(1, 13), (3, 6), (3, 13), (4, 6), (4, 7), (4, 13), (6, 9), (6, 12), (6, 13), (7, 9),
        (7, 12), (7, 13), (9, 13), (10, 13), (11, 13), (12, 13)]) := by decide

/-- Settles O15: two rules have a common word exactly when their patterns agree where both test, which the table answers
pair by pair. -/
theorem overlappingRulePairs : Obligations.OverlappingRulePairs := by
  intro j k r q hlt hr hq
  rw [exists_common_word_iff (pattern_and_mask (List.mem_of_getElem? hr)) (pattern_and_mask (List.mem_of_getElem? hq))]
  obtain ⟨hj, rfl⟩ := List.getElem?_eq_some_iff.mp hr
  obtain ⟨hk, rfl⟩ := List.getElem?_eq_some_iff.mp hq
  exact agreeing_pairs ⟨j, hj⟩ ⟨k, hk⟩ hlt

/-- Words that agree on their low 28 bits have the same slices there. -/
theorem slice_congr_body {raw' : Word} (h : slice raw 0 28 = slice raw' 0 28) {lo len : Nat} (hinside : lo + len ≤ 28) :
    slice raw lo len = slice raw' lo len := by
  have hraw := slice_of_slice (start := lo) (len := len) h hinside
  have hraw' := slice_of_slice (start := lo) (len := len) (Eq.refl (slice raw' 0 28)) hinside
  rw [Nat.zero_add] at hraw hraw'
  rw [hraw, hraw']

/-- A bit is the slice of width 1, read as a flag. -/
theorem getLsbD_eq_slice (w : Word) (k : Nat) : w.getLsbD k = (slice w k 1).getLsbD 0 := by
  rw [slice_getLsbD]; rfl

/-- Words that agree on their low 28 bits have the same bits there. -/
theorem getLsbD_congr_body {raw' : Word} (h : slice raw 0 28 = slice raw' 0 28) {k : Nat} (hk : k < 28) :
    raw.getLsbD k = raw'.getLsbD k := by
  rw [getLsbD_eq_slice, slice_congr_body h (Nat.succ_le_of_lt hk), ← getLsbD_eq_slice]

/-- The same for the flags, which are such bits. -/
theorem bit_congr_body {raw' : Word} (h : slice raw 0 28 = slice raw' 0 28) {i : Fin 32} (hi : i.val < 28) :
    bit raw i = bit raw' i :=
  getLsbD_congr_body h hi

/-- The walk over a rule list depends on the word through the rules' tests only. -/
theorem classifyWith_congr {raw' : Word} {rules : List Rule} (h : ∀ r ∈ rules, r.hit raw = r.hit raw') :
    classifyWith rules raw = classifyWith rules raw' := by
  induction rules with
  | nil => rfl
  | cons r rs ih =>
    obtain ⟨hr, hrs⟩ := List.forall_mem_cons.mp h
    simp only [classifyWith, hr, ih hrs]

/-- No rule of the table tests the condition field (R77). -/
theorem hit_congr_body {raw' : Word} (h : slice raw 0 28 = slice raw' 0 28) {r : Rule} (hr : r ∈ Config.classifierRules) :
    r.hit raw = r.hit raw' := by
  have hmasks : ∀ r ∈ Config.classifierRules, r.mask = (slice r.mask 0 28).setWidth 32 := by decide
  have hmasked : raw &&& r.mask = raw' &&& r.mask := by
    refine BitVec.eq_of_getLsbD_eq fun k _ => ?_
    by_cases hk : k < 28
    · rw [BitVec.getLsbD_and, BitVec.getLsbD_and, getLsbD_congr_body h hk]
    · rw [hmasks r hr, BitVec.getLsbD_and, BitVec.getLsbD_and, BitVec.getLsbD_setWidth, slice_getLsbD,
        decide_eq_false hk, Bool.false_and, Bool.and_false, Bool.and_false, Bool.and_false]
  rw [Rule.hit, Rule.hit, hmasked]

/-- The classifier does not read the condition field (R88). -/
theorem classify_congr_body {raw' : Word} (h : slice raw 0 28 = slice raw' 0 28) : classify raw = classify raw' :=
  classifyWith_congr fun _ => hit_congr_body h

/-- The register list reads its sixteen bits only (R112). -/
theorem registerList_congr_body {raw' : Word} (h : slice raw 0 28 = slice raw' 0 28) :
    registerList raw = registerList raw' := by
  rw [registerList, registerList]
  congr 1
  refine List.filter_congr fun k hk => getLsbD_congr_body h ?_
  have := List.mem_range.mp hk
  omega

/-- No extractor reads the condition field: each is made of slices and bits below 28 (R97). -/
theorem extractAll_congr_body {raw' : Word} (h : slice raw 0 28 = slice raw' 0 28) (f : Format) :
    extractAll f raw = extractAll f raw' := by
  have hop : slice raw 21 4 = slice raw' 21 4 := slice_congr_body h (by decide)
  have hfield : slice raw 0 24 = slice raw' 0 24 := slice_congr_body h (by decide)
  have hsub : slice raw 0 12 = slice raw' 0 12 := slice_congr_body h (by decide)
  have h0 : slice raw 0 4 = slice raw' 0 4 := slice_congr_body h (by decide)
  have h8 : slice raw 8 4 = slice raw' 8 4 := slice_congr_body h (by decide)
  have h12 : slice raw 12 4 = slice raw' 12 4 := slice_congr_body h (by decide)
  have h16 : slice raw 16 4 = slice raw' 16 4 := slice_congr_body h (by decide)
  have b20 : bit raw 20 = bit raw' 20 := bit_congr_body h (by decide)
  have b21 : bit raw 21 = bit raw' 21 := bit_congr_body h (by decide)
  have b22 : bit raw 22 = bit raw' 22 := bit_congr_body h (by decide)
  have b23 : bit raw 23 = bit raw' 23 := bit_congr_body h (by decide)
  have b24 : bit raw 24 = bit raw' 24 := bit_congr_body h (by decide)
  have b25 : bit raw 25 = bit raw' 25 := bit_congr_body h (by decide)
  simp only [extractAll, rn, rd, rm, opcode, branchOffset, loadFlag, writeBackFlag, transferSize, psrFlag, addOffsetFlag,
    preIndexFlag, immediateSelect, operand2, offset, offsetWith, registerList_congr_body h, hop, hfield, hsub, h0, h8, h12,
    h16, b20, b21, b22, b23, b24, b25]

/-- Settles O16: neither the rules' masks nor the extractors' slices reach above bit 27. -/
theorem conditionFieldFeedsOnlyTheCondition : Obligations.ConditionFieldFeedsOnlyTheCondition := fun _ _ h =>
  ⟨classify_congr_body h, extractAll_congr_body h⟩

end Sys2Proof.Proofs
end

section
/-! SUPPORT. Every word is the word of the instruction it is read as, which is well-formed and refined, and back: the two
directions of the round trip, and what it says of the rows that share a word. The statements of `30_encoding.md`. -/

namespace Sys2Proof.Proofs

open Sys2Proof.Machine Sys2Proof.Laws

variable {raw : Word} {c : Condition}

/-- The bits `lo` to `lo + n - 1` of a word, as a mask. -/
def fieldMask (lo n : Nat) : Word := place lo (BitVec.allOnes n)

/-- A slice put back in its place is the word under the mask of the slice. -/
theorem place_slice (w : Word) (lo n : Nat) : place lo (slice w lo n) = w &&& fieldMask lo n := by
  refine BitVec.eq_of_getLsbD_eq fun k hk => ?_
  rw [fieldMask, BitVec.getLsbD_and, place_getLsbD, place_getLsbD, slice_getLsbD, BitVec.getLsbD_allOnes]
  by_cases hlo : lo ≤ k
  · rw [Nat.add_sub_cancel' hlo, decide_eq_true hk, decide_eq_true hlo, Bool.true_and, Bool.true_and, Bool.true_and,
      Bool.true_and, Bool.and_comm]
  · simp only [decide_eq_false hlo, Bool.false_and, Bool.and_false]

/-- A flag put back in its place is the word under the mask of that bit. -/
theorem placeBit_bit (w : Word) {i : Fin 32} {k : Nat} (h : i.val = k) : placeBit k (bit w i) = w &&& fieldMask k 1 := by
  rw [← place_slice, bit_eq, h]
  refine congrArg (fun x : BitVec 1 => x.setWidth 32 <<< k) (BitVec.eq_of_getLsbD_eq fun j hj => ?_)
  obtain rfl : j = 0 := by omega
  rw [BitVec.getLsbD_ofBool, slice_getLsbD]
  simp

/-- The pattern of a format's rule is a passing word under the rule's mask (R76). -/
theorem pattern_eq_and_mask {f : Format} (h : fits f raw) : (formatRule f).pattern = raw &&& (formatRule f).mask :=
  (hit_eq_true_iff.mp ((hit_formatRule f).mpr h)).symm

/-- The word of an opcode row is that of its operation (R34 row 13). -/
theorem encode_ofOpCode (op : OpCode) (c : Condition) (k s : Bool) (n d : Reg) (o : BitVec 12) :
    encode (.ofOpCode op c k s n d o) = encodeDataProcessing c k op s n d o := by
  cases op <;> rfl

/-- The check of an opcode row is that of its operation (R81 row 13). -/
theorem wellFormed_ofOpCode (op : OpCode) (c : Condition) (k s : Bool) (n d : Reg) (o : BitVec 12) :
    (Instr.ofOpCode op c k s n d o).wellFormed = WellFormed.dataProcessing k op s n d o := by
  cases op <;> rfl

/-- An opcode row is refined. -/
theorem refined_ofOpCode (op : OpCode) (c : Condition) (k s : Bool) (n d : Reg) (o : BitVec 12) :
    (Instr.ofOpCode op c k s n d o).refined = .ofOpCode op c k s n d o := by
  cases op <;> rfl

/-- Reading a branch word splits on its link bit, which both rows encode (R35). -/
theorem encode_decodeFormat_branchLink (c : Condition) (raw : Word) :
    encode (decodeFormat .branchLink c raw) = encodeBranch c (bit raw 24) (slice raw 0 24) := by
  rw [decodeFormat]
  cases bit raw 24 <;> rfl

/-- A word under masks that together hold all bits is the word. -/
theorem and_eq_self {m : Word} (hm : m = BitVec.allOnes 32) : raw &&& m = raw := by
  rw [hm, BitVec.and_allOnes]

/-- A word that passes a format's test is the word of the row read from it: the condition field, the rule's pattern and the
free fields are the word under masks that together hold all 32 bits. -/
theorem encode_decodeFormat {f : Format} (hc : slice raw 28 4 = c.code) (hf : fits f raw) :
    encode (decodeFormat f c raw) = raw := by
  have hp := pattern_eq_and_mask hf
  cases f with
  | branchLink =>
    simp [formatRule, Config.classifierRules, Format.tag] at hp
    simp only [encode_decodeFormat_branchLink, encodeBranch, ← hc, place_slice, placeBit_bit, Fin.coe_ofNat_eq_mod,
      Nat.reduceMod, hp, ← BitVec.and_or_distrib_left]
    exact and_eq_self rfl
  | dataProcessing =>
    simp [formatRule, Config.classifierRules, Format.tag] at hp
    simp only [decodeFormat, encode_ofOpCode, encodeDataProcessing, code_ofCode, ← hc, place_slice, placeBit_bit,
      Fin.coe_ofNat_eq_mod, Nat.reduceMod, ← BitVec.and_or_distrib_left]
    rw [← BitVec.or_zero (x := raw &&& _), hp, ← BitVec.and_or_distrib_left]
    exact and_eq_self rfl
  | _ =>
    simp [formatRule, Config.classifierRules, Format.tag] at hp
    simp only [decodeFormat, encode, ← hc, place_slice, placeBit_bit, Fin.coe_ofNat_eq_mod, Nat.reduceMod, hp,
      ← BitVec.and_or_distrib_left]
    exact and_eq_self rfl

/-- The test of a format passes in every word of it. -/
theorem fits_of_classify {f : Format} (h : classify raw = some f) : fits f raw :=
  ((classify_iff_of_earlierOverlaps f).mp h).1

/-- A data-processing term whose word rule 13 takes is well-formed: no earlier rule hits the word (R81 row 13). -/
theorem wellFormed_of_classify {k s : Bool} {op : OpCode} {n d : Reg} {o : BitVec 12}
    (h : classify (encodeDataProcessing c k op s n d o) = some .dataProcessing) :
    WellFormed.dataProcessing k op s n d o = true := by
  have hmiss : ∀ g ∈ earlierOverlaps .dataProcessing,
      (formatRule g).hit (encodeDataProcessing c k op s n d o) = false := by
    intro g hg
    rw [← Bool.not_eq_true, hit_formatRule]
    exact ((classify_iff_of_earlierOverlaps _).mp h).2 g hg
  have h1 := (dp_hit_branchExchange c k op s n d o).symm.trans (hmiss .branchExchange (by decide))
  have h3 := (dp_hit_multiply c k op s n d o).symm.trans (hmiss .multiply (by decide))
  have h4 := (dp_hit_multiplyLong c k op s n d o).symm.trans (hmiss .multiplyLong (by decide))
  have h6 := (dp_hit_halfwordSignedTransferReg c k op s n d o).symm.trans (hmiss .halfwordSignedTransferReg (by decide))
  have h7 := (dp_hit_halfwordSignedTransferImm c k op s n d o).symm.trans (hmiss .halfwordSignedTransferImm (by decide))
  have h10 := (dp_hit_moveFromPsr c k op s n d o).symm.trans (hmiss .moveFromPsr (by decide))
  have h11 := (dp_hit_moveToPsrReg c k op s n d o).symm.trans (hmiss .moveToPsrReg (by decide))
  have h12 := (dp_hit_moveToPsrFlags c k op s n d o).symm.trans (hmiss .moveToPsrFlags (by decide))
  simp only [WellFormed.dataProcessing, h1, h3, h4, h6, h7, h10, h11, h12, Bool.not_false, Bool.and_self]

/-- The operands R126 selects are the well-formed ones. -/
theorem wellFormed_halfwordImm_iff {p u : Bool} {sh : BitVec 2} :
    WellFormed.halfwordImm p u sh = true ↔ ¬ (p = false ∧ u = true ∧ sh = 0b00#2) := by
  simp only [WellFormed.halfwordImm, Bool.not_eq_true', Bool.and_eq_false_iff, Bool.not_eq_false', beq_eq_false_iff_ne,
    not_and_or, Bool.not_eq_false, Bool.not_eq_true, ne_eq, or_assoc]

/-- The operands R131 selects are the well-formed ones. -/
theorem wellFormed_psrFlags_iff {k z : Bool} {sub : BitVec 12} : WellFormed.psrFlags k z sub = true ↔
    ¬ (k = false ∧ sub.getLsbD 7 = true ∧ sub.getLsbD 4 = true ∧ (z = true ∨ sub.extractLsb' 8 4 = 0#4)) := by
  simp only [WellFormed.psrFlags, Bool.not_eq_true', ← Bool.not_eq_true, Bool.and_eq_true, Bool.or_eq_true, beq_iff_eq,
    and_assoc]

/-- The bits 24 and 23 of a word as its slice at 23. -/
theorem slice_23_2_eq_iff : slice raw 23 2 = 0b01#2 ↔ bit raw 24 = false ∧ bit raw 23 = true := by
  simp only [bit_eq, bv_eq_iff, forall_lt_succ_iff, forall_lt_zero_iff, slice_getLsbD]
  simp [and_comm]

/-- The row read from a word of a format is well-formed: what the earlier rules leave of the format's words (R81) is what
the check leaves of its operands. -/
theorem wellFormed_decodeFormat {f : Format} (hc : slice raw 28 4 = c.code) (hf : classify raw = some f) :
    (decodeFormat f c raw).WellFormed := by
  cases f with
  | branchLink => rw [decodeFormat]; cases bit raw 24 <;> rfl
  | halfwordSignedTransferReg => exact wellFormed_halfwordReg_iff.mpr (classify_halfwordReg_iff.mp hf).2
  | halfwordSignedTransferImm =>
    refine wellFormed_halfwordImm_iff.mpr fun ⟨hpre, hadd, hsh⟩ => (classify_halfwordImm_iff.mp hf).2 ⟨?_, hsh⟩
    exact slice_23_2_eq_iff.mpr ⟨hpre, hadd⟩
  | singleDataSwap => exact absurd hf classify_ne_swap
  | moveToPsrFlags =>
    have hhi : (slice raw 0 12).extractLsb' 8 4 = slice raw 8 4 :=
      (slice_of_slice (start := 8) (Eq.refl (slice raw 0 12)) (by decide)).symm
    refine wellFormed_psrFlags_iff.mpr ?_
    rw [hhi, slice_getLsbD, slice_getLsbD]
    exact (classify_psrFlags_iff.mp hf).2
  | dataProcessing =>
    have hword := encode_decodeFormat hc (fits_of_classify hf)
    rw [decodeFormat, encode_ofOpCode] at hword
    rw [decodeFormat, Instr.WellFormed, wellFormed_ofOpCode]
    refine wellFormed_of_classify (c := c) ?_
    rw [hword]
    exact hf
  | _ => rfl

/-- The row read from a word is refined: the reading chooses B or BL, and the opcode's row. -/
theorem refined_decodeFormat (f : Format) (c : Condition) (raw : Word) :
    (decodeFormat f c raw).refined = decodeFormat f c raw := by
  cases f with
  | branchLink => rw [decodeFormat]; cases bit raw 24 <;> rfl
  | dataProcessing => exact refined_ofOpCode ..
  | _ => rfl

/-- A word without a format is the word of its error row (R133). -/
theorem encode_noFormat_slice (hc : slice raw 28 4 = c.code) (hspace : slice raw 26 2 = 0b11#2) :
    encode (.noFormat c (slice raw 0 26)) = raw := by
  have hp : (0x0C000000#32 : Word) = place 26 (slice raw 26 2) := by rw [hspace]; rfl
  simp only [encode, ← hc, hp, place_slice, ← BitVec.and_or_distrib_left]
  exact and_eq_self rfl

/-- A word with code 15 is the word of its error row (R141). -/
theorem encode_reservedCondition_slice (hc : slice raw 28 4 = 15#4) :
    encode (.reservedCondition (slice raw 0 28)) = raw := by
  have hp : (0xF0000000#32 : Word) = place 28 (slice raw 28 4) := by rw [hc]; rfl
  simp only [encode, hp, place_slice, ← BitVec.and_or_distrib_left]
  exact and_eq_self rfl

/-- Settles O58: a word has code 15, or a condition and no format, or a condition and a format; in each case its free bits
and the fixed ones are the whole word. -/
theorem encodeDecode : Obligations.EncodeDecode := by
  intro w
  obtain ⟨c, hc⟩ | hc := code_cases (slice w 28 4)
  · cases hf : classify w with
    | none =>
      rw [decodeWord_noFormat hc hf]
      exact ⟨encode_noFormat_slice hc (classify_eq_none_iff.mp hf), rfl, rfl⟩
    | some f =>
      rw [decodeWord_of hc hf]
      exact ⟨encode_decodeFormat hc (fits_of_classify hf), wellFormed_decodeFormat hc hf, refined_decodeFormat f c w⟩
  · rw [decodeWord_reserved hc]
    exact ⟨encode_reservedCondition_slice hc, rfl, rfl⟩

/-- Every word is the word of the instruction it is read as. -/
theorem encode_decodeWord (w : Word) : encode (decodeWord w) = w := (encodeDecode w).1

/-- Settles O57: the round trip of each row. -/
theorem decodeEncode : Obligations.DecodeEncode := by
  intro i
  cases i with
  | branchExchange c rn => exact RoundTrip.branchExchange c rn
  | branchLink c l o => exact RoundTrip.branchLink c l o
  | b c o => exact RoundTrip.b c o
  | bl c o => exact RoundTrip.bl c o
  | multiply c w f rd rn rs rm => exact RoundTrip.multiply c w f rd rn rs rm
  | multiplyLong c u w f rdHi rd rn rm => exact RoundTrip.multiplyLong c u w f rdHi rd rn rm
  | singleDataTransfer c k p u z w l rn rd o => exact RoundTrip.singleDataTransfer c k p u z w l rn rd o
  | halfwordSignedTransferReg c p u w l rn rd sh rm => exact RoundTrip.halfwordSignedTransferReg c p u w l rn rd sh rm
  | halfwordSignedTransferImm c p u w l rn rd hi sh lo =>
    exact RoundTrip.halfwordSignedTransferImm c p u w l rn rd hi sh lo
  | blockDataTransfer c p u z w l rn list => exact RoundTrip.blockDataTransfer c p u z w l rn list
  | singleDataSwap c z rn rd rm => exact RoundTrip.singleDataSwap c z rn rd rm
  | moveFromPsr c z rd => exact RoundTrip.moveFromPsr c z rd
  | moveToPsrReg c z rm => exact RoundTrip.moveToPsrReg c z rm
  | moveToPsrFlags c k z o => exact RoundTrip.moveToPsrFlags c k z o
  | dataProcessing c k op f rn rd o => exact RoundTrip.dataProcessing c k op f rn rd o
  | and c k f rn rd o => exact RoundTrip.and c k f rn rd o
  | eor c k f rn rd o => exact RoundTrip.eor c k f rn rd o
  | sub c k f rn rd o => exact RoundTrip.sub c k f rn rd o
  | rsb c k f rn rd o => exact RoundTrip.rsb c k f rn rd o
  | add c k f rn rd o => exact RoundTrip.add c k f rn rd o
  | adc c k f rn rd o => exact RoundTrip.adc c k f rn rd o
  | sbc c k f rn rd o => exact RoundTrip.sbc c k f rn rd o
  | rsc c k f rn rd o => exact RoundTrip.rsc c k f rn rd o
  | tst c k f rn rd o => exact RoundTrip.tst c k f rn rd o
  | teq c k f rn rd o => exact RoundTrip.teq c k f rn rd o
  | cmp c k f rn rd o => exact RoundTrip.cmp c k f rn rd o
  | cmn c k f rn rd o => exact RoundTrip.cmn c k f rn rd o
  | orr c k f rn rd o => exact RoundTrip.orr c k f rn rd o
  | mov c k f rn rd o => exact RoundTrip.mov c k f rn rd o
  | bic c k f rn rd o => exact RoundTrip.bic c k f rn rd o
  | mvn c k f rn rd o => exact RoundTrip.mvn c k f rn rd o
  | noFormat c body => exact RoundTrip.noFormat c body
  | reservedCondition body => exact RoundTrip.reservedCondition body

/-- A row and the row that refines it have the same word (R35). -/
theorem encode_refined (i : Instr) : encode i.refined = encode i := by
  cases i with
  | branchLink c link o => cases link <;> rfl
  | dataProcessing c k op s n d o => exact encode_ofOpCode op c k s n d o
  | _ => rfl

/-- Instructions with one word have one meaning: a meaning is what `decode` returns on the word. -/
theorem exec_congr_word {i j : Instr} (h : encode i = encode j) (s : State) : exec i s = exec j s := by
  rw [exec_eq_decode, exec_eq_decode, h]

/-- Settles O47: the refined row and the row read back have the term's own word. -/
theorem formatRowsAgreeWithRefinedRows : Obligations.FormatRowsAgreeWithRefinedRows := fun i s =>
  ⟨encode_refined i, exec_congr_word (encode_refined i) s, exec_congr_word (encode_decodeWord (encode i)) s⟩

end Sys2Proof.Proofs
end

section
/-! SUPPORT. The outcomes of `decode`: which words fail and how, how many they are, what a descriptor says of its own word,
and where the address goes. The statements of `40_decode_top.md`. -/

namespace Sys2Proof.Proofs

open Sys2Proof.Machine Sys2Proof.Laws

variable {raw addr : Word}

/-- Code 15 is answered by the error that carries it (R141). -/
theorem blockDecode_reserved (h : slice raw 28 4 = 15#4) (addr : Word) :
    blockDecode raw addr = .err (.reservedConditionCode 15#4) :=
  (decodePriority raw addr).1 h

/-- A valid condition without a format is answered by the error that carries the word (R142). -/
theorem blockDecode_noFormat (hc : slice raw 28 4 ≠ 15#4) (hspace : slice raw 26 2 = 0b11#2) (addr : Word) :
    blockDecode raw addr = .err (.unknownInstructionFormat raw) :=
  (decodePriority raw addr).2.1 hc (classify_eq_none_iff.mpr hspace)

/-- A valid condition with a format is answered by a descriptor (R52). -/
theorem exists_blockDecode_ok (hc : slice raw 28 4 ≠ 15#4) (hspace : slice raw 26 2 ≠ 0b11#2) (addr : Word) :
    ∃ d, blockDecode raw addr = .ok d := by
  obtain ⟨f, hf⟩ := Option.ne_none_iff_exists'.mp (mt classify_eq_none_iff.mp hspace)
  obtain ⟨d, hd, -⟩ := (decodePriority raw addr).2.2 f hc hf
  exact ⟨d, hd⟩

/-- Settles O18: the three kinds of word exclude each other, and each has its one answer. -/
theorem decodeErrorsExactly : Obligations.DecodeErrorsExactly := by
  intro raw addr e
  by_cases hc : slice raw 28 4 = 15#4
  · simp only [blockDecode_reserved hc, DecodeResult.err.injEq, hc, ne_eq, not_true_eq_false, false_and, or_false,
      true_and, eq_comm]
  · by_cases hspace : slice raw 26 2 = 0b11#2
    · simp only [blockDecode_noFormat hc hspace, DecodeResult.err.injEq, hc, ne_eq, not_false_eq_true, hspace, false_and,
        false_or, true_and, eq_comm]
    · obtain ⟨d, hd⟩ := exists_blockDecode_ok hc hspace addr
      simp only [hd, reduceCtorEq, hc, hspace, false_and, and_false, or_false]

/-- The words of the first outcome (R52, R141). -/
theorem blockDecode_eq_reserved_iff :
    blockDecode raw addr = .err (.reservedConditionCode 15#4) ↔ slice raw 28 4 = 15#4 := by
  simp only [decodeErrorsExactly raw addr, and_true, reduceCtorEq, and_false, or_false]

/-- The words of the second outcome (R52, R142). -/
theorem blockDecode_eq_unknown_iff :
    blockDecode raw addr = .err (.unknownInstructionFormat raw) ↔ slice raw 28 4 ≠ 15#4 ∧ slice raw 26 2 = 0b11#2 := by
  simp only [decodeErrorsExactly raw addr, and_true, reduceCtorEq, and_false, false_or]

/-- The words of the third outcome (R52). -/
theorem isOk_blockDecode_iff :
    (blockDecode raw addr).isOk = true ↔ slice raw 28 4 ≠ 15#4 ∧ slice raw 26 2 ≠ 0b11#2 := by
  constructor
  · intro hok
    refine ⟨fun hc => ?_, fun hspace => ?_⟩
    · rw [blockDecode_reserved hc] at hok
      cases hok
    · by_cases hc : slice raw 28 4 = 15#4
      · rw [blockDecode_reserved hc] at hok
        cases hok
      · rw [blockDecode_noFormat hc hspace] at hok
        cases hok
  · rintro ⟨hc, hspace⟩
    obtain ⟨d, hd⟩ := exists_blockDecode_ok hc hspace addr
    rw [hd]
    rfl

/-- A predicate that looks only at the quotient by `m` holds `m` times for every quotient it holds of. -/
theorem count_eq_mul_count {p q : Nat → Prop} [DecidablePred p] [DecidablePred q] {m : Nat} (k : Nat)
    (h : ∀ j < k, ∀ i < m, p (j * m + i) ↔ q j) : Nat.count p (k * m) = Nat.count q k * m := by
  induction k with
  | zero => simp
  | succ k ih =>
    have hblock : Nat.count (fun i => p (k * m + i)) m = if q k then m else 0 := by
      split
      next hq => exact Nat.count_of_forall fun {i} hi => (h k (Nat.lt_succ_self k) i hi).mpr hq
      next hq => exact Nat.count_of_forall_not fun {i} hi => mt (h k (Nat.lt_succ_self k) i hi).mp hq
    rw [Nat.succ_mul, Nat.count_add, hblock, ih fun j hj => h j (Nat.lt_succ_of_lt hj), Nat.count_succ, Nat.add_mul]
    split <;> simp

/-- The word numbered `j * 2^26 + i` has the six bits of `j` above bit 25. -/
theorem fields_of_ofNat {j i : Nat} (hj : j < 64) (hi : i < 2 ^ 26) :
    slice (BitVec.ofNat 32 (j * 2 ^ 26 + i)) 28 4 = BitVec.ofNat 4 (j / 4) ∧
      slice (BitVec.ofNat 32 (j * 2 ^ 26 + i)) 26 2 = BitVec.ofNat 2 j := by
  have hnumber : (BitVec.ofNat 32 (j * 2 ^ 26 + i)).toNat = j * 2 ^ 26 + i := by
    rw [BitVec.toNat_ofNat, Nat.mod_eq_of_lt (by omega)]
  constructor
  · refine BitVec.eq_of_toNat_eq ?_
    rw [slice_toNat, hnumber, BitVec.toNat_ofNat]
    omega
  · refine BitVec.eq_of_toNat_eq ?_
    rw [slice_toNat, hnumber, BitVec.toNat_ofNat]
    omega

/-- The count of the words, of all 2^32, of which a statement holds that looks at their top six bits only. -/
theorem count_of_fields {p : Nat → Prop} [DecidablePred p] (q : BitVec 4 → BitVec 2 → Prop) [DecidableRel q]
    (h : ∀ n, p n ↔ q (slice (BitVec.ofNat 32 n) 28 4) (slice (BitVec.ofNat 32 n) 26 2)) :
    Nat.count p (2 ^ 32) = Nat.count (fun j => q (BitVec.ofNat 4 (j / 4)) (BitVec.ofNat 2 j)) 64 * 2 ^ 26 := by
  have hsize : 2 ^ 32 = 64 * 2 ^ 26 := by norm_num
  rw [hsize]
  refine count_eq_mul_count 64 fun j hj i hi => ?_
  obtain ⟨hcond, hspace⟩ := fields_of_ofNat hj hi
  rw [h, hcond, hspace]

/-- Settles O19: each outcome is decided by the top six bits, of whose 64 values 4, 15 and 45 give it. -/
theorem outcomeCounts : Obligations.OutcomeCounts := by
  intro addr
  refine ⟨?_, ?_, ?_⟩
  · rw [count_of_fields (fun cond _ => cond = 15#4) fun n => blockDecode_eq_reserved_iff]
    decide
  · rw [count_of_fields (fun cond space => cond ≠ 15#4 ∧ space = 0b11#2) fun n => blockDecode_eq_unknown_iff]
    decide
  · rw [count_of_fields (fun cond space => cond ≠ 15#4 ∧ space ≠ 0b11#2) fun n => isOk_blockDecode_iff]
    decide

/-- A returned record's format is the classifier's for its own word (R52). -/
theorem classifyWith_of_decodeRecordWith {rules : List Rule} {d : Descriptor}
    (h : decodeRecordWith rules raw addr = .ok d) : classifyWith rules d.raw = some d.fmt := by
  unfold decodeRecordWith at h
  split at h
  next => cases h
  next =>
    split at h
    next => cases h
    next f hf => cases h; exact hf

/-- Every descriptor has the invariants of R19 (b) to (e): it carries the decode that gave it (R54). -/
theorem decodedDescriptor_good (d : DecodedDescriptor) : Descriptor.Good d.toDescriptor := by
  have hcode := decodedDescriptor_cond_code d
  have hfmt : classify d.raw = some d.fmt := classifyWith_of_decodeRecordWith d.decoded
  refine ⟨hcode, hcode ▸ code_ne_reserved d.cond, hfmt, space_of_classify hfmt, fun hswap => ?_⟩
  exact classify_ne_swap (hswap ▸ hfmt)

/-- A descriptor carries the inputs it was decoded from (R52). -/
theorem blockDecode_inputs {d : DecodedDescriptor} (h : blockDecode raw addr = .ok d) : d.raw = raw ∧ d.pc = addr :=
  decodeRecordWith_inputs (blockDecode_eq_ok_iff.mp h)

/-- Settles O20: what a descriptor carries is the decode of its own word. -/
theorem decodedDescriptorsAreGood : Obligations.DecodedDescriptorsAreGood :=
  ⟨fun _ _ _ => blockDecode_inputs, fun d => ⟨blockDecode_eq_ok_iff.mpr d.decoded, decodedDescriptor_good d⟩⟩

/-- A record decoded at one address is decoded at another with that address in its `pc` (R14). -/
theorem decodeRecord_at {a : Word} {d : Descriptor} (h : decodeRecord raw a = .ok d) (b : Word) :
    decodeRecord raw b = .ok { d with pc := b } := by
  obtain ⟨hraw, -⟩ := decodeRecordWith_inputs h
  have hcode := decodeCondition_eq_ok_iff.mp (decodeCondition_of_decodeRecordWith h)
  have hfmt : classify d.raw = some d.fmt := classifyWith_of_decodeRecordWith h
  rw [hraw] at hcode hfmt
  rw [decodeRecord_of hcode.symm hfmt, hraw]

/-- Settles O21: which error a word gives does not mention the address, and a record has it in `pc` alone. -/
theorem addressReachesOnlyPc : Obligations.AddressReachesOnlyPc := by
  intro raw a b
  refine ⟨fun e he => (decodeErrorsExactly raw b e).mpr ((decodeErrorsExactly raw a e).mp he), fun d hd => ?_⟩
  have hrecord := decodeRecord_at (blockDecode_eq_ok_iff.mp hd) b
  obtain ⟨hraw, hpc⟩ := blockDecode_inputs hd
  refine ⟨hpc, ⟨{ d.toDescriptor with pc := b }, ?_⟩, blockDecode_eq_ok_iff.mpr hrecord, rfl⟩
  rw [← hrecord, hraw]

end Sys2Proof.Proofs
end

section
/-! SUPPORT. The machine: a step answers `decode` of the presented pair, so a program is decoded pair by pair and the
outputs stay good; reset, the frame of every instruction, and the two error rows. The statements of `10_state.md`,
`60_exceptions.md` and `70_reset_and_hazards.md`. -/

namespace Sys2Proof.Proofs

open Sys2Proof.Machine Sys2Proof.Laws

/-- What a step does, with no mention of the instruction: the presented state, answering `decode` of its own word. -/
theorem step_eq (s : State) : step s = .next (s.present.decode s.present.raw) := by
  rw [step_eq_decode, encode_decodeWord]

/-- Settles O53: the word read as an instruction and encoded again is the word, so its meaning is `decode` of it. -/
theorem stepRefinesDecode : Obligations.StepRefinesDecode := step_eq

/-- What `decode` returns is a good answer: a descriptor is good, and the errors are the two that occur (R19, R140). -/
theorem good_ofResult (raw addr : Word) : (Answer.ofResult (blockDecode raw addr)).Good := by
  cases h : blockDecode raw addr with
  | ok d => exact ⟨decodedDescriptor_good d, rfl⟩
  | err e =>
    obtain ⟨-, rfl⟩ | ⟨hc, hspace, rfl⟩ := (decodeErrorsExactly raw addr e).mp h
    · rfl
    · exact ⟨hc, hspace⟩

/-- Settles O50: whatever the state shows before, a step's answer is what `decode` returns. -/
theorem everyStepKeepsGood : Obligations.EveryStepKeepsGood := by
  intro s t _ ht
  rw [step_eq] at ht
  cases ht
  exact good_ofResult s.present.raw s.present.addr

/-- Settles O49: no result is a good answer (the reset value is the model's choice, log entry 3). -/
theorem resetIsGood : Obligations.ResetIsGood := trivial

/-- A step with a pair pending shows that pair on the inputs and `decode` of it as the answer (R157). -/
theorem step_of_cons {s : State} {p : Stimulus} {rest : List Stimulus} (h : s.pending = p :: rest) :
    step s = .next ⟨p.raw, p.addr, rest, .ofResult (blockDecode p.raw p.addr)⟩ := by
  rw [step_eq, present_of_cons s h]
  rfl

/-- A run whose first step presents a pending pair goes on from the state that shows it. -/
theorem run_of_cons {s : State} {p : Stimulus} {rest : List Stimulus} (h : s.pending = p :: rest) (k : Nat) :
    Host.Core.run Sys2Proof.core (k + 1) s =
      Host.Core.run Sys2Proof.core k (⟨p.raw, p.addr, rest, .ofResult (blockDecode p.raw p.addr)⟩ : State) :=
  run_succ_of_next (M := Sys2Proof.core) (step_of_cons h) k

/-- After `k + 1` steps the inputs show the `k`-th pending pair and the answer is `decode` of it. -/
theorem run_of_pending {s : State} {k : Nat} {p : Stimulus} (h : s.pending[k]? = some p) :
    Host.Core.run Sys2Proof.core (k + 1) s =
      .next (⟨p.raw, p.addr, s.pending.drop (k + 1), .ofResult (blockDecode p.raw p.addr)⟩ : State) := by
  induction k generalizing s with
  | zero =>
    obtain ⟨rest, hcons⟩ := List.head?_eq_some_iff.mp (List.head?_eq_getElem? ▸ h)
    rw [run_of_cons hcons, hcons]
    rfl
  | succ k ih =>
    cases hcons : s.pending with
    | nil => simp [hcons] at h
    | cons q rest =>
      rw [hcons, List.getElem?_cons_succ] at h
      rw [run_of_cons hcons, ih h, List.drop_succ_cons]

/-- Settles O54: by induction on the steps before the pair's own; decoding the list is decoding each of its pairs. -/
theorem programDecodesPairByPair : Obligations.ProgramDecodesPairByPair := by
  intro s k p h
  refine ⟨_, run_of_pending h, rfl, rfl, rfl, rfl, ?_⟩
  rw [decodeProgram, List.getElem?_map, h]
  rfl

/-- Settles O48: the reset state and its idle ports, field by field. -/
theorem resetShowsNoResult : Obligations.ResetShowsNoResult := by
  unfold Obligations.ResetShowsNoResult
  decide

/-- The word that the opcode table's numbering gives 32 bits or fewer is read as the decoder reads it. -/
theorem decodeTableWord_eq {nbits w : Nat} (h : nbits ≤ 32) :
    decodeTableWord nbits w = some (decodeWord (tableWord nbits w)) := by
  rw [decodeTableWord, if_pos h, wordBytes, decodeBytes, assembleWord_wordBytes]

/-- A row of more than 32 bits is no instruction (R30). -/
theorem le_of_decodeTableWord {nbits w : Nat} {i : Instr} (h : decodeTableWord nbits w = some i) : nbits ≤ 32 := by
  rw [decodeTableWord] at h
  split at h
  · assumption
  · cases h

/-- Settles O51: a step runs the reading of the presented word, and a placed word is the presented one. -/
theorem stepRunsDecodedInstruction : Obligations.StepRunsDecodedInstruction := by
  refine ⟨fun s i hi => by rw [step, hi], present_of_nil, fun s p rest => present_of_cons s, fun s nbits w i hi => ?_⟩
  rw [decodeTableWord_eq (le_of_decodeTableWord hi)] at hi
  rw [step, withFetchWord_present_raw, Option.some.inj hi]

/-- What `decode` returns is a result. -/
theorem ofResult_ne_noResult (r : DecodeResult) : Answer.ofResult r ≠ .noResult := by
  cases r <;> exact fun h => nomatch h

/-- Settles O52: every meaning is the same state with what `decode` returns as its answer. -/
theorem everyInstructionChangesOutputsOnly : Obligations.EveryInstructionChangesOutputsOnly := fun i s =>
  ⟨_, ofResult_ne_noResult _, exec_eq_decode i s⟩

/-- Settles O46: the arm raises that error, and a step over code 15 answers what `decode` does. -/
theorem reservedConditionAnswersFifteen : Obligations.ReservedConditionAnswersFifteen := by
  refine ⟨fun _ _ => rfl, fun s hc => ?_⟩
  rw [step_eq, State.decode, blockDecode_reserved hc]
  rfl

/-- The free bits and the space of a word without a format. -/
theorem fields_encode_noFormat (c : Condition) (body : BitVec 26) :
    slice (encode (.noFormat c body)) 26 2 = 0b11#2 ∧ slice (encode (.noFormat c body)) 0 26 = body := by
  obtain ⟨hc, hf⟩ := encode_noFormat c body
  have hround := RoundTrip.noFormat c body rfl
  rw [decodeWord_noFormat hc hf] at hround
  exact ⟨classify_eq_none_iff.mp hf, (Instr.noFormat.inj hround).2⟩

/-- Settles O45: the error carries the instruction's own word, whose fields are the row's. -/
theorem noFormatAnswersUnknownFormat : Obligations.NoFormatAnswersUnknownFormat := fun c body _ =>
  ⟨_, rfl, (encode_noFormat c body).1, fields_encode_noFormat c body⟩

end Sys2Proof.Proofs
end

section
/-! SUPPORT. The rest of the Bit Accessor and the arithmetic helpers: `bit_range` as a widened slice and as a number, the
arithmetic shift, the rotation bit by bit, and the signed reading. The statements of `41_bit_accessor.md`. -/

namespace Sys2Proof.Proofs

open Sys2Proof.Laws

/-- On its domain `bit_range` is the slice of its bounds, widened (R61, R62). -/
theorem bitRange_eq {lo hi : Nat} (hle : lo ≤ hi) (hhi : hi ≤ 32) (w : Word) :
    bitRange w lo hi = (slice w lo (hi - lo)).setWidth 32 := by
  rw [bitRange, if_pos ⟨hle, hhi⟩, slice]

/-- The bits of `bit_range`: those of the word from `lo` on, up to the width (R61). -/
theorem bitRange_getLsbD {lo hi : Nat} (hle : lo ≤ hi) (hhi : hi ≤ 32) (w : Word) (k : Nat) :
    (bitRange w lo hi).getLsbD k = (decide (k < hi - lo) && w.getLsbD (lo + k)) := by
  rw [bitRange_eq hle hhi, BitVec.getLsbD_setWidth, slice_getLsbD]
  by_cases hk : k < hi - lo
  · have hk32 : k < 32 := by omega
    rw [decide_eq_true hk32, Bool.true_and]
  · simp only [decide_eq_false hk, Bool.false_and, Bool.and_false]

/-- `bit_range` as a number (R61). -/
theorem bitRange_toNat {lo hi : Nat} (hle : lo ≤ hi) (hhi : hi ≤ 32) (w : Word) :
    (bitRange w lo hi).toNat = w.toNat / 2 ^ lo % 2 ^ (hi - lo) := by
  rw [bitRange_eq hle hhi, BitVec.toNat_setWidth_of_le (by omega), slice_toNat]

/-- `bit_range` as a shift and a mask (R61). -/
theorem bitRange_eq_shift_and_mask {lo hi : Nat} (hle : lo ≤ hi) (hhi : hi ≤ 32) (w : Word) :
    bitRange w lo hi = (w >>> lo) &&& BitVec.ofNat 32 (2 ^ (hi - lo) - 1) := by
  refine BitVec.eq_of_getLsbD_eq fun k hk => ?_
  rw [bitRange_getLsbD hle hhi, BitVec.getLsbD_and, BitVec.getLsbD_ushiftRight, BitVec.getLsbD_ofNat,
    Nat.testBit_two_pow_sub_one, decide_eq_true hk, Bool.true_and, Bool.and_comm]

/-- The whole range is the word (R61). -/
theorem bitRange_full (w : Word) : bitRange w 0 32 = w := by
  refine BitVec.eq_of_getLsbD_eq fun k hk => ?_
  rw [bitRange_getLsbD (by decide) (by decide), decide_eq_true hk, Bool.true_and, Nat.zero_add]

/-- Settles O2: the widened slice, read as a number and bit by bit. -/
theorem bitRangeIsFloorMod : Obligations.BitRangeIsFloorMod := fun w _ _ hle hhi =>
  ⟨bitRange_toNat hle hhi w, bitRange_eq_shift_and_mask hle hhi w, bitRange_getLsbD hle hhi w, bitRange_full w⟩

/-- Settles O3: `bit_range` is a widened slice, here of the width given. -/
theorem slicesAreBitRanges : Obligations.SlicesAreBitRanges := by
  intro w lo n hn
  rw [bitRange_eq (Nat.le_add_right lo n) hn, Nat.add_sub_cancel_left]

/-- A bit is the range of width 1, compared with 1 (R63 (a)). -/
theorem bit_eq_bitRange (w : Word) (i : Fin 32) : bit w i = (bitRange w i.val (i.val + 1) == 1#32) := by
  rw [bit_eq_shift_and_one, bitRange_eq_shift_and_mask (Nat.le_add_right _ 1) i.isLt, Nat.add_sub_cancel_left]
  rfl

/-- A range splits at any point inside it (R63 (d)). -/
theorem bitRange_split {lo mid hi : Nat} (hlo : lo ≤ mid) (hmid : mid ≤ hi) (hhi : hi ≤ 32) (w : Word) :
    (bitRange w lo hi).toNat = (bitRange w lo mid).toNat + 2 ^ (mid - lo) * (bitRange w mid hi).toNat := by
  rw [bitRange_toNat (hlo.trans hmid) hhi, bitRange_toNat hlo (hmid.trans hhi), bitRange_toNat hmid hhi]
  have hwidth : hi - lo = (mid - lo) + (hi - mid) := by omega
  have hstart : mid = lo + (mid - lo) := by omega
  have hquot : w.toNat / 2 ^ mid = w.toNat / 2 ^ lo / 2 ^ (mid - lo) := by
    rw [Nat.div_div_eq_div_mul, ← Nat.pow_add, ← hstart]
  rw [hwidth, Nat.pow_add, Nat.mod_mul, hquot]

/-- A masked comparison holds exactly when every tested bit agrees with the pattern (R63 (e)). -/
theorem and_eq_iff_forall_bit {w m p : Word} (hp : p &&& m = p) :
    w &&& m = p ↔ ∀ i : Fin 32, bit m i = true → bit w i = bit p i := by
  constructor
  · rintro rfl i hm
    rw [bit_eq, bit_eq, BitVec.getLsbD_and]
    rw [bit_eq] at hm
    rw [hm, Bool.and_true]
  · intro h
    rw [← hp]
    refine BitVec.eq_of_getLsbD_eq fun k hk => ?_
    have hbit := h ⟨k, hk⟩
    simp only [bit_eq] at hbit
    rw [BitVec.getLsbD_and, BitVec.getLsbD_and]
    cases hm : m.getLsbD k with
    | true => rw [hbit hm]
    | false => rw [Bool.and_false, Bool.and_false]

/-- Settles O4: the three laws of R63. -/
theorem bitAccessorLaws : Obligations.BitAccessorLaws :=
  ⟨bit_eq_bitRange, fun w _ _ _ hlo hmid hhi => bitRange_split hlo hmid hhi w, fun _ _ _ => and_eq_iff_forall_bit⟩

/-- Settles O6: the signed value of the shift is the floor of the quotient; the vacated bits copy the sign bit. -/
theorem arithmeticShiftRoundsDown : Obligations.ArithmeticShiftRoundsDown := by
  intro x n _
  constructor
  · rw [asr32, BitVec.toInt_sshiftRight, Int.shiftRight_eq_div_pow, Int.fdiv_eq_ediv_of_nonneg _ (by positivity)]
    norm_cast
  · intro k hk
    rw [asr32, BitVec.getLsbD_sshiftRight, decide_eq_false (Nat.not_le_of_lt hk), Nat.add_comm, BitVec.msb_eq_getLsbD_last]
    rfl

/-- Settles O7: below `32 - n` the bits come from the right shift, from there on from the left shift; a rotation by 0 is the
word. -/
theorem rotateRightMovesBits : Obligations.RotateRightMovesBits := by
  intro v n k hn hk
  rw [ror32]
  split
  next hzero => rw [hzero, Nat.add_zero, Nat.mod_eq_of_lt hk]
  next hpos =>
    rw [BitVec.getLsbD_or, BitVec.getLsbD_ushiftRight, BitVec.getLsbD_shiftLeft, decide_eq_true hk, Bool.true_and]
    by_cases hlow : k < 32 - n
    · have hsum : (k + n) % 32 = n + k := by omega
      rw [decide_eq_true hlow, hsum, Bool.not_true, Bool.false_and, Bool.or_false]
    · have hsum : (k + n) % 32 = k - (32 - n) := by omega
      rw [decide_eq_false hlow, hsum, BitVec.getLsbD_of_ge v (n + k) (by omega), Bool.not_false, Bool.true_and,
        Bool.false_or]

/-- The signed reading is that of the bit vector (R68, D22). -/
theorem asI32_eq_toInt (v : Word) : asI32 v = v.toInt := by
  have hsign : v.toNat < 2 ^ 31 ↔ 2 * v.toNat < 2 ^ 32 := by omega
  rw [asI32, BitVec.toInt_eq_toNat_cond]
  simp only [hsign]
  norm_cast

/-- The signed reading is the pattern modulo 2^32 (R68). -/
theorem asI32_emod (v : Word) : asI32 v % 2 ^ 32 = (v.toNat : Int) := by
  have hlt := v.isLt
  rw [asI32]
  split
  · omega
  · omega

/-- Settles O8: the bit vector's signed value lies in its range, and is the pattern modulo its size. -/
theorem signedReadingIsTwosComplement : Obligations.SignedReadingIsTwosComplement := by
  intro v
  have hvalue := asI32_eq_toInt v
  exact ⟨hvalue, hvalue ▸ v.le_toInt, hvalue ▸ v.toInt_lt, asI32_emod v⟩

end Sys2Proof.Proofs
end

section
/-! SUPPORT. The Shift/Operand Decoder, the opcode table, the flags and the applicability matrix: each form of an operand as
slices of the word, what it loses, and the statements of `44_shift_operand_decoder.md` and `45_field_extractors.md`. -/

namespace Sys2Proof.Proofs

open Sys2Proof.Machine Sys2Proof.Laws

variable {raw : Word}

/-- The register form of a shift (R91). -/
theorem decodeShift_of_register {sub : BitVec 12} (h : sub.getLsbD 4 = true) :
    decodeShift sub = .registerShift (sub.extractLsb' 8 4) (shiftType (sub.extractLsb' 5 2)) := by
  simp only [decodeShift, h, if_true]

/-- The immediate form of a shift (R91). -/
theorem decodeShift_of_immediate {sub : BitVec 12} (h : sub.getLsbD 4 = false) :
    decodeShift sub = .immediateShift (sub.extractLsb' 7 5) (shiftType (sub.extractLsb' 5 2)) := by
  simp only [decodeShift, h, Bool.false_eq_true, if_false]

/-- A field of a sub-field given as a number. -/
theorem extractLsb'_ofNat_eq {n start len : Nat} {v : BitVec len} (h : n % 4096 / 2 ^ start % 2 ^ len = v.toNat) :
    (BitVec.ofNat 12 n).extractLsb' start len = v := by
  refine BitVec.eq_of_toNat_eq ?_
  rw [BitVec.extractLsb'_toNat, BitVec.toNat_ofNat, Nat.shiftRight_eq_div_pow]
  exact h

/-- Bit 4 of a sub-field given as a number. -/
theorem getLsbD_four_ofNat (n : Nat) : (BitVec.ofNat 12 n).getLsbD 4 = decide (n / 16 % 2 = 1) := by
  rw [BitVec.getLsbD_ofNat, Nat.testBit_eq_decide_div_mod_eq]
  rfl

/-- Settles O22: the sub-field's parts are read back from its number, bit 4 choosing the form. -/
theorem shiftDescriptors : Obligations.ShiftDescriptors := by
  refine ⟨fun amount t rm => ?_, fun rs b7 t rm => ?_, rfl, rfl, rfl, rfl⟩
  · have ha := amount.isLt
    have ht := t.isLt
    have hr := rm.isLt
    rw [decodeShift_of_immediate, extractLsb'_ofNat_eq (v := amount) (by omega), extractLsb'_ofNat_eq (v := t) (by omega)]
    rw [getLsbD_four_ofNat, decide_eq_false_iff_not]
    omega
  · have hs := rs.isLt
    have hb := b7.toNat_lt
    have ht := t.isLt
    have hr := rm.isLt
    rw [decodeShift_of_register, extractLsb'_ofNat_eq (v := rs) (by omega), extractLsb'_ofNat_eq (v := t) (by omega)]
    rw [getLsbD_four_ofNat, decide_eq_true_iff]
    omega

/-- A field of the sub-field is a slice of the word. -/
theorem extractLsb'_sub (raw : Word) {start len : Nat} (h : start + len ≤ 12) :
    (slice raw 0 12).extractLsb' start len = slice raw start len := by
  rw [← slice_of_slice (Eq.refl (slice raw 0 12)) h, Nat.zero_add]

/-- The register form of an operand (R94, R95). -/
theorem shiftedRegister_sub (raw : Word) :
    shiftedRegister (slice raw 0 12) = .shiftedRegister (rm raw) (decodeShift (slice raw 0 12)) := by
  rw [shiftedRegister, extractLsb'_sub raw (by decide), rm]

/-- The second operand with bit 25 set (R94). -/
theorem operand2_of_immediate (h : bit raw 25 = true) :
    operand2 raw = .rotatedImmediate (slice raw 0 8) (rotateAmount (slice raw 8 4)) := by
  rw [operand2, h, if_pos rfl, extractLsb'_sub raw (by decide), extractLsb'_sub raw (by decide)]

/-- The second operand with bit 25 clear (R94). -/
theorem operand2_of_register (h : bit raw 25 = false) :
    operand2 raw = .shiftedRegister (rm raw) (decodeShift (slice raw 0 12)) := by
  rw [operand2, h, if_neg Bool.false_ne_true, shiftedRegister_sub]

/-- A transfer offset with the selector at its register value (R95). -/
theorem offsetWith_of_register {p : Bool} (h : bit raw 25 = p) :
    offsetWith p raw = .shiftedRegister (rm raw) (decodeShift (slice raw 0 12)) := by
  rw [offsetWith, if_pos (beq_iff_eq.mpr h), shiftedRegister_sub]

/-- A transfer offset with the selector at its other value (R95). -/
theorem offsetWith_of_immediate {p : Bool} (h : bit raw 25 ≠ p) : offsetWith p raw = .immediateValue (slice raw 0 12) := by
  rw [offsetWith, if_neg (mt beq_iff_eq.mp h)]

/-- The lowest bits of a word as a number. -/
theorem slice_zero_toNat (raw : Word) (n : Nat) : (slice raw 0 n).toNat = raw.toNat % 2 ^ n := by
  rw [slice_toNat, Nat.pow_zero, Nat.div_one]

/-- A word that gives a rotated immediate: bit 25, the field and the byte. -/
def rotatedImmediateWord (imm8 : BitVec 8) (field : BitVec 4) : Word := placeBit 25 true ||| place 8 field ||| place 0 imm8

/-- Its second operand is that immediate (R94). -/
theorem operand2_rotatedImmediateWord (imm8 : BitVec 8) (field : BitVec 4) :
    operand2 (rotatedImmediateWord imm8 field) = .rotatedImmediate imm8 (rotateAmount field) := by
  have hfields : bit (rotatedImmediateWord imm8 field) 25 = true ∧ slice (rotatedImmediateWord imm8 field) 0 8 = imm8 ∧
      slice (rotatedImmediateWord imm8 field) 8 4 = field := by
    simp only [rotatedImmediateWord, bit_eq, slice_getLsbD, bv_eq_iff, forall_lt_succ_iff, forall_lt_zero_iff,
      BitVec.getLsbD_or, place_getLsbD, placeBit_getLsbD]
    simp
  obtain ⟨hbit, hbyte, hfield⟩ := hfields
  rw [operand2_of_immediate hbit, hbyte, hfield]

/-- Settles O23: the two forms of R94, and a word for every even amount, made of half the amount. -/
theorem secondOperandForms : Obligations.SecondOperandForms := by
  refine ⟨fun raw => ⟨fun h => ?_, fun h => ?_⟩, fun imm8 rotate => ⟨rotate.even, ?_, ?_⟩⟩
  · refine ⟨_, _, operand2_of_immediate h, slice_zero_toNat raw 8, ?_⟩
    rw [rotateAmount_toNat, slice_toNat]
    rfl
  · exact ⟨_, operand2_of_register h, slice_zero_toNat raw 4⟩
  · have heven := rotate.even
    have hlt := rotate.amount.isLt
    omega
  · refine ⟨rotatedImmediateWord imm8 (BitVec.ofNat 4 (rotate.amount.toNat / 2)), ?_⟩
    rw [operand2_rotatedImmediateWord, rotateAmount_surjective]

/-- Settles O24: the two forms of R95; the block's offset is the polarity of decision D9. -/
theorem offsetFormsForBothPolarities : Obligations.OffsetFormsForBothPolarities :=
  ⟨fun _ raw => ⟨fun h => ⟨_, offsetWith_of_register h, slice_zero_toNat raw 4⟩,
    fun h => ⟨_, offsetWith_of_immediate h, slice_zero_toNat raw 12⟩⟩, fun _ => rfl⟩

/-- The value of a rotated immediate, bit by bit (R96): only the byte's own bits are set. -/
theorem rotatedImmediateValue_getLsbD (imm8 : BitVec 8) (rotate : RotateAmount) {k : Nat} (hk : k < 32) :
    (rotatedImmediateValue imm8 rotate).getLsbD k = imm8.getLsbD ((k + rotate.amount.toNat) % 32) := by
  have hindex : (k + rotate.amount.toNat) % 32 < 32 := Nat.mod_lt _ (by decide)
  rw [rotatedImmediateValue, rotateRightMovesBits _ _ _ (Nat.le_of_lt_succ rotate.amount.isLt) hk, BitVec.getLsbD_setWidth,
    decide_eq_true hindex, Bool.true_and]

/-- A value is output exactly beside a rotated immediate, so with bit 25 set (the model's choice, log entry 9). -/
theorem value?_operand2_eq_none_iff : OperandValue.value? (operand2 raw) = none ↔ bit raw 25 = false := by
  cases h : bit raw 25 with
  | true => rw [operand2_of_immediate h]; exact iff_of_false (Option.some_ne_none _) Bool.noConfusion
  | false => rw [operand2_of_register h]; exact iff_of_true rfl rfl

/-- Settles O25: the rotation of R66 on the widened byte, whose value without rotation is the byte's. -/
theorem rotatedImmediateValues : Obligations.RotatedImmediateValues := by
  refine ⟨fun imm8 rotate k => rotatedImmediateValue_getLsbD imm8 rotate, fun imm8 rotate h => ?_,
    fun f raw => ⟨fun imm8 rotate h => congrArg OperandValue.value? h, value?_operand2_eq_none_iff⟩⟩
  have hlt := imm8.isLt
  have hwide : (imm8.setWidth 32).toNat = imm8.toNat := BitVec.toNat_setWidth_of_le (by decide)
  have hzero : (0#5).toNat = 0 := rfl
  rw [rotatedImmediateValue, h, ror32, if_pos hzero, BitVec.toInt_eq_toNat_of_lt (by omega), hwide]

/-- The four shift types have four codes (R92). -/
theorem shiftType_inj {a b : BitVec 2} : shiftType a = shiftType b ↔ a = b := by
  revert a b
  decide

/-- A field of a bit vector agrees with another's exactly when their bits do. -/
theorem extractLsb'_eq_iff {w start len : Nat} {x y : BitVec w} :
    x.extractLsb' start len = y.extractLsb' start len ↔ ∀ i, i < len → x.getLsbD (start + i) = y.getLsbD (start + i) := by
  rw [bv_eq_iff]
  refine forall₂_congr fun i hi => ?_
  rw [BitVec.getLsbD_extractLsb', BitVec.getLsbD_extractLsb', decide_eq_true hi, Bool.true_and, Bool.true_and]

/-- What two register forms share: all bits but bit 7 of a register-specified shift (R99). -/
theorem shiftedRegister_eq_iff {sub sub' : BitVec 12} : shiftedRegister sub = shiftedRegister sub' ↔
    ∀ k, k < 12 → (k = 7 ∧ sub.getLsbD 4 = true) ∨ sub.getLsbD k = sub'.getLsbD k := by
  have hfour : sub.getLsbD 4 ≠ sub'.getLsbD 4 →
      ¬ ∀ k, k < 12 → (k = 7 ∧ sub.getLsbD 4 = true) ∨ sub.getLsbD k = sub'.getLsbD k := fun hne hall =>
    hne ((hall 4 (by decide)).resolve_left fun h => absurd h.1 (by decide))
  simp only [shiftedRegister, OperandValue.shiftedRegister.injEq]
  cases h : sub.getLsbD 4 with
  | true =>
    cases h' : sub'.getLsbD 4 with
    | true =>
      simp only [decodeShift_of_register h, decodeShift_of_register h', ShiftDescriptor.registerShift.injEq, shiftType_inj,
        extractLsb'_eq_iff, forall_lt_succ_iff, forall_lt_zero_iff, h, h']
      simp
      tauto
    | false =>
      rw [decodeShift_of_register h, decodeShift_of_immediate h']
      rw [h, h'] at hfour
      exact iff_of_false (fun heq => nomatch heq.2) (hfour (by decide))
  | false =>
    cases h' : sub'.getLsbD 4 with
    | true =>
      rw [decodeShift_of_immediate h, decodeShift_of_register h']
      rw [h, h'] at hfour
      exact iff_of_false (fun heq => nomatch heq.2) (hfour (by decide))
    | false =>
      simp only [decodeShift_of_immediate h, decodeShift_of_immediate h', ShiftDescriptor.immediateShift.injEq,
        shiftType_inj, extractLsb'_eq_iff, forall_lt_succ_iff, forall_lt_zero_iff, h, h']
      simp
      tauto

/-- The same of the sub-fields of two words. -/
theorem shiftedRegister_sub_eq_iff {raw' : Word} :
    shiftedRegister (slice raw 0 12) = shiftedRegister (slice raw' 0 12) ↔
      ∀ k, k < 12 → (k = 7 ∧ bit raw 4 = true) ∨ raw.getLsbD k = raw'.getLsbD k := by
  have hform : (slice raw 0 12).getLsbD 4 = bit raw 4 := by rw [slice_getLsbD]; rfl
  rw [shiftedRegister_eq_iff, hform]
  refine forall₂_congr fun k hk => ?_
  rw [slice_getLsbD, slice_getLsbD, decide_eq_true hk, Nat.zero_add, Bool.true_and, Bool.true_and]

/-- Two sub-fields are the same when the words' low twelve bits are. -/
theorem slice_sub_eq_iff {raw' : Word} :
    slice raw 0 12 = slice raw' 0 12 ↔ ∀ k, k < 12 → raw.getLsbD k = raw'.getLsbD k := by
  simp only [slice, extractLsb'_eq_iff, Nat.zero_add]

/-- Two rotated immediates are the same when the byte and the field are, which make up the sub-field (R94). -/
theorem rotatedImmediate_eq_iff {raw' : Word} :
    OperandValue.rotatedImmediate (slice raw 0 8) (rotateAmount (slice raw 8 4)) =
        .rotatedImmediate (slice raw' 0 8) (rotateAmount (slice raw' 8 4)) ↔ slice raw 0 12 = slice raw' 0 12 := by
  rw [OperandValue.rotatedImmediate.injEq, rotateAmount_inj]
  constructor
  · rintro ⟨hbyte, hfield⟩
    simp only [slice, extractLsb'_eq_iff, Nat.zero_add] at hbyte hfield ⊢
    intro k hk
    by_cases h8 : k < 8
    · exact hbyte k h8
    · rw [← Nat.add_sub_of_le (Nat.le_of_not_lt h8)]
      exact hfield (k - 8) (by omega)
  · intro h
    have hpart : ∀ {start len : Nat}, start + len ≤ 12 → slice raw start len = slice raw' start len := fun hinside => by
      rw [← extractLsb'_sub raw hinside, h, extractLsb'_sub raw' hinside]
    exact ⟨hpart (by decide), hpart (by decide)⟩

/-- What two second operands share (R99). -/
theorem operand2_eq_iff {raw' : Word} : operand2 raw = operand2 raw' ↔ bit raw 25 = bit raw' 25 ∧
    ∀ k, k < 12 → (k = 7 ∧ bit raw 25 = false ∧ bit raw 4 = true) ∨ raw.getLsbD k = raw'.getLsbD k := by
  cases h : bit raw 25 with
  | true =>
    cases h' : bit raw' 25 with
    | true =>
      rw [operand2_of_immediate h, operand2_of_immediate h', rotatedImmediate_eq_iff, slice_sub_eq_iff]
      simp
    | false => rw [operand2_of_immediate h, operand2_of_register h']; simp
  | false =>
    cases h' : bit raw' 25 with
    | true => rw [operand2_of_register h, operand2_of_immediate h']; simp
    | false =>
      rw [operand2_of_register h, operand2_of_register h', ← shiftedRegister_sub, ← shiftedRegister_sub,
        shiftedRegister_sub_eq_iff]
      simp

/-- The block's offset with bit 25 set (R95, D9). -/
theorem offset_of_register (h : bit raw 25 = true) : offset raw = .shiftedRegister (rm raw) (decodeShift (slice raw 0 12)) :=
  offsetWith_of_register h

/-- The block's offset with bit 25 clear (R95, D9). -/
theorem offset_of_immediate (h : bit raw 25 = false) : offset raw = .immediateValue (slice raw 0 12) :=
  offsetWith_of_immediate (h ▸ Bool.false_ne_true)

/-- What two offsets share (R99, D9). -/
theorem offset_eq_iff {raw' : Word} : offset raw = offset raw' ↔ bit raw 25 = bit raw' 25 ∧
    ∀ k, k < 12 → (k = 7 ∧ bit raw 25 = true ∧ bit raw 4 = true) ∨ raw.getLsbD k = raw'.getLsbD k := by
  cases h : bit raw 25 with
  | true =>
    cases h' : bit raw' 25 with
    | true =>
      rw [offset_of_register h, offset_of_register h', ← shiftedRegister_sub, ← shiftedRegister_sub,
        shiftedRegister_sub_eq_iff]
      simp
    | false => rw [offset_of_register h, offset_of_immediate h']; simp
  | false =>
    cases h' : bit raw' 25 with
    | true => rw [offset_of_immediate h, offset_of_register h']; simp
    | false =>
      rw [offset_of_immediate h, offset_of_immediate h', OperandValue.immediateValue.injEq, slice_sub_eq_iff]
      simp

/-- Settles O26: the form is decided by bit 25; the immediates keep the whole sub-field, the register form all but the one
bit. -/
theorem operandsLoseOnlyBitSeven : Obligations.OperandsLoseOnlyBitSeven :=
  ⟨fun _ _ => operand2_eq_iff, fun _ _ => offset_eq_iff⟩

/-- Settles O28: the table and the codes invert each other. -/
theorem opcodesAreABijection : Obligations.OpcodesAreABijection := by
  refine ⟨ofCode_code, code_ofCode, rfl, fun raw => ?_⟩
  rw [opcode, code_ofCode, slice_toNat]
  rfl

/-- Settles O29: each flag is a bit, so the parity of a quotient; the size branches on bit 22. -/
theorem flagsAreSingleBits : Obligations.FlagsAreSingleBits := by
  intro raw
  have hsize : TransferSize.bytes (transferSize raw) = if raw.toNat / 2 ^ 22 % 2 = 1 then 1 else 4 := by
    have hbit : bit raw 22 = true ↔ raw.toNat / 2 ^ 22 % 2 = 1 := bit_eq_true_iff_div_mod raw 22
    simp only [transferSize, hbit]
    split <;> rfl
  exact ⟨bit_eq_true_iff_div_mod raw 20, rfl, bit_eq_true_iff_div_mod raw 21, hsize, bit_eq_true_iff_div_mod raw 22,
    bit_eq_true_iff_div_mod raw 23, bit_eq_true_iff_div_mod raw 24, rfl, bit_eq_true_iff_div_mod raw 25⟩

/-- The one cell that a bit of the word decides: `rm` of a data-processing word or a flags move with bit 25 set (R116). -/
def RmHidden (e : Extractor) (f : Format) (raw : Word) : Prop :=
  e = .rm ∧ bit raw 25 = true ∧ (f = .dataProcessing ∨ f = .moveToPsrFlags)

/-- In that cell the value has no meaning. -/
theorem applicabilityIn_of_hidden {e : Extractor} {f : Format} (h : RmHidden e f raw) :
    applicabilityIn e f raw = .meaningless := by
  obtain ⟨rfl, hbit, rfl | rfl⟩ := h <;> simp only [applicabilityIn, immediateSelect, hbit, if_true]

/-- In every other cell the matrix decides. -/
theorem applicabilityIn_of_not_hidden {e : Extractor} {f : Format} (h : ¬ RmHidden e f raw) :
    applicabilityIn e f raw = applicability e f := by
  unfold applicabilityIn
  split
  next => rw [immediateSelect, if_neg fun hbit => h ⟨rfl, hbit, .inl rfl⟩]
  next => rw [immediateSelect, if_neg fun hbit => h ⟨rfl, hbit, .inr rfl⟩]
  next => rfl

/-- A scoped reading is nothing exactly where there is no meaning (R115). -/
theorem scopedTo_eq_ite {α : Type} (e : Extractor) (f : Format) (raw : Word) (v : α) :
    scopedTo e f raw v = if applicabilityIn e f raw = .meaningless then none else some v := by
  rw [scopedTo]
  cases applicabilityIn e f raw <;> rfl

/-- An extractor's row of the matrix (R116): the formats of its S cells and of its g cells. -/
def RowIs (e : Extractor) (stated general : List Format) : Prop :=
  ∀ f : Format, (applicability e f = .stated ↔ f ∈ stated) ∧ (applicability e f = .general ↔ f ∈ general)

/-- A row holds when it holds of the formats listed in the rule table, which are all. -/
theorem RowIs.of_listed {e : Extractor} {stated general : List Format}
    (h : ∀ f ∈ Config.classifierRules.map Rule.format,
      (applicability e f = .stated ↔ f ∈ stated) ∧ (applicability e f = .general ↔ f ∈ general)) :
    RowIs e stated general :=
  fun f => h f (mem_classifierRules_formats f)

/-- A cell of neither kind has no meaning. -/
theorem RowIs.meaningless_iff {e : Extractor} {stated general : List Format} (h : RowIs e stated general) (f : Format) :
    applicability e f = .meaningless ↔ ¬ (f ∈ stated ∨ f ∈ general) := by
  rw [← (h f).1, ← (h f).2]
  cases applicability e f <;> simp

/-- The scoped reading of a row known cell by cell (R115, R116). -/
theorem RowIs.scopedTo_eq {e : Extractor} {stated general : List Format} (h : RowIs e stated general) (f : Format)
    {α : Type} (raw : Word) (v : α) :
    ((f ∈ stated ∨ f ∈ general) ∧ ¬ RmHidden e f raw → scopedTo e f raw v = some v) ∧
      (¬ (f ∈ stated ∨ f ∈ general) ∨ RmHidden e f raw → scopedTo e f raw v = none) := by
  rw [scopedTo_eq_ite]
  by_cases hhidden : RmHidden e f raw
  · rw [applicabilityIn_of_hidden hhidden]
    exact ⟨fun hcell => absurd hhidden hcell.2, fun _ => if_pos rfl⟩
  · rw [applicabilityIn_of_not_hidden hhidden]
    exact ⟨fun hcell => if_neg (mt (h.meaningless_iff f).mp (not_not.mpr hcell.1)),
      fun hcell => if_pos ((h.meaningless_iff f).mpr (hcell.resolve_right hhidden))⟩

/-- Settles O30: the cells are read off the matrix; the readings follow row by row. -/
theorem scopedReadings : Obligations.ScopedReadings := by
  intro row hrow f
  have hcells : RowIs row.1 row.2.1 row.2.2 := by
    refine RowIs.of_listed ?_
    revert row
    decide
  exact ⟨(hcells f).1, (hcells f).2, fun α raw v => hcells.scopedTo_eq f raw v⟩

end Sys2Proof.Proofs
end

section
/-! SUPPORT. The outputs of the transfers, the swap, the status-register moves and data processing, read back from the word of
each. The statements of `46_formats.md`. -/

namespace Sys2Proof.Proofs

open Sys2Proof.Machine Sys2Proof.Laws

variable {raw : Word} {sub : BitVec 12}

/-- The lowest bits of a known sub-field. -/
theorem slice_zero_of_sub (hsub : slice raw 0 12 = sub) {len : Nat} (hlen : len ≤ 12) :
    slice raw 0 len = sub.setWidth len := by
  refine BitVec.eq_of_getLsbD_eq fun k hk => ?_
  have hk12 : k < 12 := by omega
  rw [← hsub, BitVec.getLsbD_setWidth, slice_getLsbD, slice_getLsbD, decide_eq_true hk12, Bool.true_and]

/-- The second operand by bit 25 and a known sub-field: the register form (R94). -/
theorem operand2_of_sub_register (hbit : bit raw 25 = false) (hsub : slice raw 0 12 = sub) :
    operand2 raw = .shiftedRegister (sub.setWidth 4) (decodeShift sub) := by
  rw [operand2_of_register hbit, hsub, rm, slice_zero_of_sub hsub (by decide)]

/-- The second operand by bit 25 and a known sub-field: the rotated immediate, its amount twice the top four bits (R94, D24). -/
theorem operand2_of_sub_immediate (hbit : bit raw 25 = true) (hsub : slice raw 0 12 = sub) :
    ∃ r : RotateAmount, operand2 raw = .rotatedImmediate (sub.setWidth 8) r ∧ r.amount.toNat = 2 * (sub.toNat / 256) := by
  refine ⟨rotateAmount (slice raw 8 4), ?_, ?_⟩
  · rw [operand2_of_immediate hbit, slice_zero_of_sub hsub (by decide)]
  · have hlt := sub.isLt
    rw [rotateAmount_toNat, ← extractLsb'_sub raw (by decide), hsub, BitVec.extractLsb'_toNat, Nat.shiftRight_eq_div_pow]
    omega

/-- The transfer offset by bit 25 and a known sub-field (R95, D9). -/
theorem offset_of_sub {k : Bool} (hbit : bit raw 25 = k) (hsub : slice raw 0 12 = sub) :
    offset raw = if k then .shiftedRegister (sub.setWidth 4) (decodeShift sub) else .immediateValue sub := by
  cases k with
  | true => rw [if_pos rfl, offset_of_register hbit, hsub, rm, slice_zero_of_sub hsub (by decide)]
  | false => rw [if_neg Bool.false_ne_true, offset_of_immediate hbit, hsub]

/-- The size of a transfer by its bit (R107). -/
theorem transferSize_of_bit {z : Bool} (hbit : bit raw 22 = z) :
    transferSize raw = if z then .oneByte else .fourBytes := by
  rw [transferSize, hbit]

/-- Settles O36: no earlier rule overlaps rule 5; the offset and the size are functions of the operands read back. -/
theorem singleDataTransferOutputs : Obligations.SingleDataTransferOutputs := by
  refine ⟨fun raw => classify_iff_fits (by decide), fun c k p u z w l n d sub s => ?_⟩
  have hword := encode_singleDataTransfer c k p u z w l n d sub
  obtain ⟨y, hexec, hy⟩ := exec_of hword s
  obtain ⟨-, hk, hp, hu, hz, hw, hl, hn, hd, hsub⟩ := Instr.singleDataTransfer.inj
    (decodeFormat_encode hword (RoundTrip.singleDataTransfer c k p u z w l n d sub) rfl)
  exact ⟨y, _, hexec, hy, hn, hd, hk, offset_of_sub hk hsub, hp, hu, transferSize_of_bit hz, hw, hl⟩

/-- Settles O38: MultiplyLong is the only earlier rule in the way, of the words and so of the operands; bit 22 is fixed. -/
theorem halfwordImmediateOutputs : Obligations.HalfwordImmediateOutputs := by
  refine ⟨fun raw => ?_, fun c p u w l n d hi sh lo s hsel => ?_⟩
  · simp only [classify_halfwordImm_iff, fitsHalfwordImm, and_assoc]
  · have hwf := wellFormed_halfwordImm_iff.mpr hsel
    have hword := encode_halfwordSignedTransferImm c p u w l n d hi sh lo hwf
    obtain ⟨y, hexec, hy⟩ := exec_of hword s
    obtain ⟨-, hp, hu, hw, hl, hn, hd, -, -, hlo⟩ := Instr.halfwordSignedTransferImm.inj
      (decodeFormat_encode hword (RoundTrip.halfwordSignedTransferImm c p u w l n d hi sh lo) hwf)
    obtain ⟨⟨-, hbit, -⟩, -⟩ := classify_halfwordImm_iff.mp hword.2
    exact ⟨y, _, hexec, hy, hn, hd, hp, hu, hw, hl, transferSize_of_bit hbit, hlo⟩

section Swap

variable (c : Condition) (z : Bool) (n d m : Reg)

/-- The condition field of a swap word, and its shape (R78 row 9). -/
theorem encode_singleDataSwap : slice (encode (.singleDataSwap c z n d m)) 28 4 = c.code ∧
    fitsSwap (encode (.singleDataSwap c z n d m)) := by
  simp only [fitsSwap, encode, slice_getLsbD, bv_eq_iff, forall_lt_succ_iff, forall_lt_zero_iff, BitVec.getLsbD_or,
    place_getLsbD, placeBit_getLsbD]
  simp

/-- The free fields of a swap word. -/
theorem fields_encode_singleDataSwap : bit (encode (.singleDataSwap c z n d m)) 22 = z ∧
    slice (encode (.singleDataSwap c z n d m)) 16 4 = n ∧ slice (encode (.singleDataSwap c z n d m)) 12 4 = d ∧
    slice (encode (.singleDataSwap c z n d m)) 0 4 = m := by
  simp only [encode, bit_eq, slice_getLsbD, bv_eq_iff, forall_lt_succ_iff, forall_lt_zero_iff, BitVec.getLsbD_or,
    place_getLsbD, placeBit_getLsbD]
  simp

/-- The halfword format that a swap word is given (R82). -/
theorem classify_encode_singleDataSwap : classify (encode (.singleDataSwap c z n d m)) =
    some (if z then .halfwordSignedTransferImm else .halfwordSignedTransferReg) := by
  obtain ⟨-, hswap⟩ := encode_singleDataSwap c z n d m
  obtain ⟨hbit, -⟩ := fields_encode_singleDataSwap c z n d m
  cases z with
  | true => exact classify_of_swap_imm hswap hbit
  | false => exact classify_of_swap_reg hswap hbit

end Swap

/-- Settles O40: a swap word is a halfword transfer with a swap's fixed flags, and the repaired order gives it the record of
its own format; `rn`, `rd` and `rm` stand at the general places in all three. -/
theorem singleDataSwapOutputs : Obligations.SingleDataSwapOutputs := by
  constructor
  · intro c z n d m s
    obtain ⟨hcode, hswap⟩ := encode_singleDataSwap c z n d m
    obtain ⟨-, hn, hd, hm⟩ := fields_encode_singleDataSwap c z n d m
    obtain ⟨hp, hu, hw, hl, -⟩ := flags_of_swap hswap
    obtain ⟨y, hexec, hy⟩ := exec_of ⟨hcode, classify_encode_singleDataSwap c z n d m⟩ s
    refine ⟨y, _, hexec, hy, ?_, ?_, hm, hp, hu, hw, hl⟩
    · cases z <;> exact hn
    · cases z <;> exact hd
  · intro c z n d m addr
    obtain ⟨hcode, hswap⟩ := encode_singleDataSwap c z n d m
    obtain ⟨hbit, hn, hd, hm⟩ := fields_encode_singleDataSwap c z n d m
    refine ⟨_, rfl, ?_, hn, hd, hm, transferSize_of_bit hbit⟩
    simp only [decodeRecordWith, hcode, decodeCondition_code, classifyWith_repaired_of_swap hswap]

/-- Settles O41: no earlier rule overlaps rule 10, which fixes the bits that `rn` reads. -/
theorem moveFromPsrOutputs : Obligations.MoveFromPsrOutputs := by
  have hselect : ∀ raw : Word, classify raw = some .moveFromPsr ↔
      slice raw 23 5 = 0b00010#5 ∧ slice raw 16 6 = 0b001111#6 ∧ slice raw 0 12 = 0#12 := fun raw =>
    classify_iff_fits (by decide)
  refine ⟨hselect, fun c z d s => ?_⟩
  have hword := encode_moveFromPsr c z d
  obtain ⟨y, hexec, hy⟩ := exec_of hword s
  obtain ⟨-, hz, hd⟩ := Instr.moveFromPsr.inj (decodeFormat_encode hword (RoundTrip.moveFromPsr c z d) rfl)
  obtain ⟨-, hfixed, -⟩ := (hselect _).mp hword.2
  have hn : slice (encode (.moveFromPsr c z d)) 16 4 = 15#4 := slice_of_slice (start := 0) hfixed (by decide)
  exact ⟨y, _, hexec, hy, hd, hz, hn⟩

/-- Settles O43: the halfword transfers are the only earlier rules in the way, of the words and so of the operands. -/
theorem moveToPsrFlagsOutputs : Obligations.MoveToPsrFlagsOutputs := by
  refine ⟨fun raw => ?_, fun c k z sub s hsel => ?_⟩
  · simp only [classify_psrFlags_iff, fitsMoveToPsrFlags, and_assoc]
  · have hwf := wellFormed_psrFlags_iff.mpr hsel
    have hword := encode_moveToPsrFlags c k z sub hwf
    obtain ⟨y, hexec, hy⟩ := exec_of hword s
    obtain ⟨-, hk, hz, hsub⟩ :=
      Instr.moveToPsrFlags.inj (decodeFormat_encode hword (RoundTrip.moveToPsrFlags c k z sub) hwf)
    exact ⟨y, _, hexec, hy, hz, hk, slice_zero_of_sub hsub (by decide),
      fun himm => operand2_of_sub_immediate (hk.trans himm) hsub,
      fun hreg => operand2_of_sub_register (hk.trans hreg) hsub⟩

/-- Data processing is what is left of the words with `raw[27:26] == 00` (R81 row 13). -/
theorem classify_dataProcessing_iff_rest : classify raw = some .dataProcessing ↔
    slice raw 26 2 = 0b00#2 ∧ ∀ f : Format, f ≠ .dataProcessing → ¬ region f raw := by
  constructor
  · intro h
    refine ⟨fits_of_classify h, fun f hf hregion => hf ?_⟩
    exact Option.some.inj (((classify_iff_region f).mpr hregion).symm.trans h)
  · rintro ⟨hspace, hrest⟩
    have hsome : classify raw ≠ none := by
      rw [ne_eq, classify_eq_none_iff, hspace]
      decide
    obtain ⟨f, hf⟩ := Option.ne_none_iff_exists'.mp hsome
    rwa [← not_ne_iff.mp fun hne => hrest f hne ((classify_iff_region f).mp hf)]

/-- Settles O44: the format row and the opcode row have one word, whose fields are the operands. -/
theorem dataProcessingOutputs : Obligations.DataProcessingOutputs := by
  refine ⟨fun raw => classify_dataProcessing_iff_rest, fun op c k f n d sub s hwf => ?_⟩
  have hrow : encode (.ofOpCode op c k f n d sub) = encode (.dataProcessing c k op f n d sub) :=
    encode_ofOpCode op c k f n d sub
  obtain ⟨y, hexec, hy⟩ := exec_of (i := .dataProcessing c k op f n d sub)
    ⟨cond_encodeDataProcessing c k op f n d sub, classify_encodeDataProcessing c k op f n d sub hwf⟩ s
  obtain ⟨hk, hop, hf, hn, hd, hsub⟩ := fields_encodeDataProcessing c k op f n d sub
  refine ⟨y, _, hexec, (exec_congr_word hrow s).trans hexec, hrow ▸ hy, hk, ?_, hf, hn, hd, fun himm => ?_, fun hreg => ?_⟩
  · exact (congrArg OpCode.ofCode hop).trans (ofCode_code op)
  · obtain ⟨r, hoperand, hamount⟩ := operand2_of_sub_immediate (hk.trans himm) hsub
    exact ⟨r, hoperand, hamount, congrArg OperandValue.value? hoperand⟩
  · have hoperand := operand2_of_sub_register (hk.trans hreg) hsub
    exact ⟨hoperand, congrArg OperandValue.value? hoperand⟩

end Sys2Proof.Proofs
end

section
/-! SUPPORT. The ports after a step, from the answer it leaves, and words laid out as bytes. The statements of
`60_exceptions.md` on the ports and of `20_memory.md`, and the sample words of `30_encoding.md`. -/

namespace Sys2Proof.Proofs

open Sys2Proof.Machine Sys2Proof.Laws

/-- What a step leaves: an answer that is `decode` of the inputs it shows. -/
theorem answer_of_step {s t : State} (h : step s = .next t) : t.answer = .ofResult (blockDecode t.raw t.addr) := by
  rw [step_eq] at h
  cases h
  rfl

/-- The ports beside a descriptor (R51). -/
theorem ports_of_ok {t : State} {d : DecodedDescriptor} (h : t.answer = .ofResult (.ok d)) :
    t.ports = Ports.ofDescriptor d (extractAll d.fmt d.raw) := by
  rw [State.ports, h]
  rfl

/-- The three ports that carry a meaning on an error (R51, R153). -/
theorem ports_of_err {t : State} {e : DecodeError} (h : t.answer = .ofResult (.err e)) :
    t.ports.ok = false ∧ t.ports.errKind = DecodeError.kind e ∧ t.ports.errInfo = DecodeError.info e := by
  rw [State.ports, h]
  exact ⟨rfl, rfl, rfl⟩

/-- The count port holds the length of the list, which is at most 16 (D23). -/
theorem listCount_toNat (raw : Word) : (BitVec.ofNat 5 (registerList raw).length).toNat = (registerList raw).length := by
  have hle := registerList_length_le raw
  rw [BitVec.toNat_ofNat, Nat.mod_eq_of_lt (by omega)]

/-- The size port holds the number of bytes, 1 or 4 (R107). -/
theorem transferSize_port_toNat (size : TransferSize) :
    (BitVec.ofNat 3 (TransferSize.bytes size)).toNat = TransferSize.bytes size := by
  cases size <;> rfl

/-- The ports after a step over a word with code 15 (R153). -/
theorem ports_reserved {s t : State} (h : step s = .next t) (hc : slice t.raw 28 4 = 15#4) :
    t.ports.ok = false ∧ t.ports.errKind = 1#2 ∧ t.ports.errInfo = 15#32 :=
  ports_of_err (blockDecode_reserved hc t.addr ▸ answer_of_step h)

/-- The ports after a step over a word with a condition and no format (R153). -/
theorem ports_noFormat {s t : State} (h : step s = .next t) (hc : slice t.raw 28 4 ≠ 15#4)
    (hspace : slice t.raw 26 2 = 0b11#2) : t.ports.ok = false ∧ t.ports.errKind = 2#2 ∧ t.ports.errInfo = t.raw :=
  ports_of_err (blockDecode_noFormat hc hspace t.addr ▸ answer_of_step h)

/-- The ports after a step over a word with a condition and a format: those of a descriptor of the inputs, which is good. -/
theorem ports_ok {s t : State} (h : step s = .next t) (hc : slice t.raw 28 4 ≠ 15#4)
    (hspace : slice t.raw 26 2 ≠ 0b11#2) : ∃ d : DecodedDescriptor,
      t.ports = Ports.ofDescriptor d (extractAll d.fmt t.raw) ∧ d.raw = t.raw ∧ d.pc = t.addr ∧
        Descriptor.Good d.toDescriptor := by
  obtain ⟨d, hd⟩ := exists_blockDecode_ok hc hspace t.addr
  obtain ⟨hraw, hpc⟩ := blockDecode_inputs hd
  have hports := ports_of_ok (hd ▸ answer_of_step h)
  exact ⟨d, hraw ▸ hports, hraw, hpc, decodedDescriptor_good d⟩

/-- No format has the tag 0, and only the swap has 9 (D4). -/
theorem tag_ne {f : Format} (h : f ≠ .singleDataSwap) : f.tag ≠ 0#4 ∧ f.tag ≠ 9#4 := by
  cases f with
  | singleDataSwap => exact absurd rfl h
  | _ => decide

/-- Settles O56: the three kinds of word, each with the ports of its answer. -/
theorem portsAfterStep : Obligations.PortsAfterStep := by
  intro s t h
  by_cases hc : slice t.raw 28 4 = 15#4
  · obtain ⟨hok, hkind, hinfo⟩ := ports_reserved h hc
    rw [hok, hkind, hinfo]
    exact ⟨by decide, by decide, fun _ => ⟨rfl, rfl, rfl⟩, fun hne => absurd hc hne, fun hne => absurd hc hne⟩
  · by_cases hspace : slice t.raw 26 2 = 0b11#2
    · obtain ⟨hok, hkind, hinfo⟩ := ports_noFormat h hc hspace
      rw [hok, hkind, hinfo]
      exact ⟨by decide, by decide, fun heq => absurd heq hc, fun _ _ => ⟨rfl, rfl, rfl⟩,
        fun _ hne => absurd hspace hne⟩
    · obtain ⟨d, hports, hraw, hpc, hcode, -, hfmt, -, hswap⟩ := ports_ok h hc hspace
      obtain ⟨htag, htag9⟩ := tag_ne hswap
      rw [hraw] at hcode hfmt
      rw [hports]
      have hkind : (0#2 : BitVec 2) ≠ 3#2 := by decide
      refine ⟨iff_of_true rfl rfl, hkind, fun heq => absurd heq hc, fun _ heq => absurd heq hspace, fun _ _ => ?_⟩
      exact ⟨rfl, rfl, rfl, hcode, ⟨d.fmt, hfmt, rfl, rfl, rfl⟩, rfl, rfl, rfl, rfl, rfl, transferSize_port_toNat _, rfl, rfl,
        rfl, rfl, rfl, rfl, rfl, htag, htag9, hraw, hpc, congrArg (slice · 0 16) hraw, listCount_toNat _⟩

/-- The bytes of an assembled word are those it was assembled from (R21). -/
theorem slices_assembleWord (b0 b1 b2 b3 : Byte) :
    slice (assembleWord b0 b1 b2 b3) 0 8 = b0 ∧ slice (assembleWord b0 b1 b2 b3) 8 8 = b1 ∧
      slice (assembleWord b0 b1 b2 b3) 16 8 = b2 ∧ slice (assembleWord b0 b1 b2 b3) 24 8 = b3 := by
  simp only [assembleWord, slice_getLsbD, bv_eq_iff, forall_lt_succ_iff, forall_lt_zero_iff, BitVec.getLsbD_or,
    place_getLsbD]
  simp

/-- A word as a number in base 256, the digits its four bytes. -/
theorem toNat_eq_bytes (w : Word) : w.toNat = (slice w 0 8).toNat + 256 * (slice w 8 8).toNat +
    65536 * (slice w 16 8).toNat + 16777216 * (slice w 24 8).toNat := by
  have hlt := w.isLt
  simp only [slice_toNat]
  omega

/-- The table's numbering of 32 bits is the word's own number. -/
theorem tableWord_toNat (w : Word) : tableWord 32 w.toNat = w := by
  rw [tableWord, Nat.mod_eq_of_lt w.isLt, BitVec.ofNat_toNat, BitVec.setWidth_eq]

/-- Settles O59: taking a word apart and assembling it again are inverse, both ways. -/
theorem bytesDecodeAsTheirWord : Obligations.BytesDecodeAsTheirWord := by
  refine ⟨fun w rest => ?_, fun w => ?_, fun b0 b1 b2 b3 => ?_⟩
  · simp only [wordBytes, List.cons_append, List.nil_append, decodeBytes, assembleWord_wordBytes]
  · rw [decodeTableWord_eq (le_refl 32), tableWord_toNat]
  · obtain ⟨h0, h1, h2, h3⟩ := slices_assembleWord b0 b1 b2 b3
    rw [toNat_eq_bytes, h0, h1, h2, h3]

/-- Settles O60: eight words, each evaluated. -/
theorem sampleWordsDecode : Obligations.SampleWordsDecode := by
  unfold Obligations.SampleWordsDecode
  decide

end Sys2Proof.Proofs
end
